-- ==== Sys2Proof/Word.lean ====
section
/-! DEFINITION. The word types of the engine (00_scope.md R18: every quantity is unsigned) and the record of
eight words that the hash state and the working variables share. -/
namespace Sys2Proof

/-- `u32`, the word of the engine (R8, R18). -/
abbrev Word := BitVec 32

/-- `u8`, an input character (R18). -/
abbrev Byte := BitVec 8

/-- `u4`, the value of a hexadecimal digit (R18, R170). -/
abbrev Nibble := BitVec 4

/-- Eight words in order. As the hash state, `a` is `H[0]` and `h` is `H[7]` (R21: the source's `a..h` at rest);
as the working variables they are the `a..h` of R30. -/
structure Words8 where
  a : Word
  b : Word
  c : Word
  d : Word
  e : Word
  f : Word
  g : Word
  h : Word
  deriving DecidableEq, Repr, Inhabited

end Sys2Proof
end

