-- ==== Sys2Proof/Syntax.lean ====
section
/-! DEFINITION. The twelve commands of 30_encoding.md R92, one constructor per row of the opcode table, with the
operands of R91 at their own widths. -/
namespace Sys2Proof

/-- A legal command (R92). An operand has the width of its `ARG` field. -/
inductive Instr where
  /-- `NOP`, R243. -/
  | nop
  /-- `CLR`, R244. -/
  | clr
  /-- `PUSH b`, `b = ARG[7:0]`, R246. -/
  | push (b : BitVec 8)
  /-- `INIT`, R215. -/
  | init
  /-- `PTXT`, R156 and R157. -/
  | ptxt
  /-- `PHEX`, R180 to R182. -/
  | phex
  /-- `CMPR`, R216. -/
  | cmpr
  /-- `HTXT`, R248. -/
  | htxt
  /-- `HHEX`, R249. -/
  | hhex
  /-- `RDH i`, `i = ARG[2:0]`, R250. -/
  | rdh (i : BitVec 3)
  /-- `RDW j`, `j = ARG[23:0]`, R252. -/
  | rdw (j : BitVec 24)
  /-- `RDS s`, `s = ARG[1:0]`, R254; `s = 3` is not well-formed (R92). -/
  | rds (s : BitVec 2)
  deriving DecidableEq, Repr

end Sys2Proof
end

