-- ==== Sys2Proof/WellFormed.lean ====
section
/-! DEFINITION. Which terms of `Instr` are commands: the static legality condition of 30_encoding.md R92 that the
operand widths do not already enforce. -/
namespace Sys2Proof

/-- The extra condition of R92 on `RDS` (`s != 3`); every other row's condition is met by the operand's width. -/
def wellFormed : Instr → Bool
  | .nop => true
  | .clr => true
  | .push _ => true
  | .init => true
  | .ptxt => true
  | .phex => true
  | .cmpr => true
  | .htxt => true
  | .hhex => true
  | .rdh _ => true
  | .rdw _ => true
  | .rds s => s != 3#2

end Sys2Proof
end

