-- ==== Sys2Proof/Decode.lean ====
section
/-! DEFINITION. Decoding (30_encoding.md R90 to R95), total on 32-bit words and rejecting by name; then the encoder,
written from the same table; then the opcode table in its match/mask form (R92). -/
namespace Sys2Proof

/-- Why a word is `ILLEGAL`: the classes R94 lists. The engine does not report which (R281). -/
inductive Illegal where
  /-- `OP` in `0x0C .. 0xFF`. -/
  | unassignedOp
  /-- An operand-less command with `ARG != 0`. -/
  | argNotZero
  /-- `PUSH` with `ARG[23:8] != 0`. -/
  | pushArgHigh
  /-- `RDH` with `ARG[23:3] != 0`. -/
  | rdhArgHigh
  /-- `RDS` with `ARG[23:2] != 0`. -/
  | rdsArgHigh
  /-- `RDS` with `ARG[1:0] == 3`. -/
  | rdsSelThree
  deriving DecidableEq, Repr

/-- What a word decodes to (R93): a command or `ILLEGAL`. -/
inductive Decoded where
  | legal (i : Instr)
  | illegal (why : Illegal)
  deriving DecidableEq, Repr

/-- Field `OP`, bits 31:24 (R90). -/
def opField (w : Word) : BitVec 8 := w.extractLsb' 24 8

/-- Field `ARG`, bits 23:0 (R90). -/
def argField (w : Word) : BitVec 24 := w.extractLsb' 0 24

/-- A command without an operand requires `ARG == 0` (R91). -/
def decodePlain (arg : BitVec 24) (i : Instr) : Decoded :=
  if arg = 0 then .legal i else .illegal .argNotZero

/-- `PUSH b`: `b = ARG[7:0]`, `ARG[23:8] == 0` (R91). -/
def decodePush (arg : BitVec 24) : Decoded :=
  if arg.extractLsb' 8 16 = 0 then .legal (.push (arg.extractLsb' 0 8)) else .illegal .pushArgHigh

/-- `RDH i`: `i = ARG[2:0]`, `ARG[23:3] == 0` (R91). -/
def decodeRdh (arg : BitVec 24) : Decoded :=
  if arg.extractLsb' 3 21 = 0 then .legal (.rdh (arg.extractLsb' 0 3)) else .illegal .rdhArgHigh

/-- `RDS s`: `s = ARG[1:0]`, `ARG[23:2] == 0` and `s != 3` (R91). -/
def decodeRds (arg : BitVec 24) : Decoded :=
  if arg.extractLsb' 2 22 = 0 then
    if arg.extractLsb' 0 2 = 3#2 then .illegal .rdsSelThree else .legal (.rds (arg.extractLsb' 0 2))
  else .illegal .rdsArgHigh

/-- The operation codes of R92 applied to the two fields. -/
def decodeFields (op : BitVec 8) (arg : BitVec 24) : Decoded :=
  match op.toNat with
  | 0x00 => decodePlain arg .nop
  | 0x01 => decodePlain arg .clr
  | 0x02 => decodePush arg
  | 0x03 => decodePlain arg .init
  | 0x04 => decodePlain arg .ptxt
  | 0x05 => decodePlain arg .phex
  | 0x06 => decodePlain arg .cmpr
  | 0x07 => decodePlain arg .htxt
  | 0x08 => decodePlain arg .hhex
  | 0x09 => decodeRdh arg
  | 0x0A => .legal (.rdw arg)
  | 0x0B => decodeRds arg
  | _ => .illegal .unassignedOp

/-- The decode function of R93. It reads no state. -/
def decode (w : Word) : Decoded := decodeFields (opField w) (argField w)

/-! The encoder. -/

/-- The `OP` value of each command (R92). -/
def opcode : Instr → BitVec 8
  | .nop => 0x00#8
  | .clr => 0x01#8
  | .push _ => 0x02#8
  | .init => 0x03#8
  | .ptxt => 0x04#8
  | .phex => 0x05#8
  | .cmpr => 0x06#8
  | .htxt => 0x07#8
  | .hhex => 0x08#8
  | .rdh _ => 0x09#8
  | .rdw _ => 0x0A#8
  | .rds _ => 0x0B#8

/-- The `ARG` value of each command: its operand zero-extended, or zero (R91). -/
def argOf : Instr → BitVec 24
  | .nop => 0
  | .clr => 0
  | .push b => b.setWidth 24
  | .init => 0
  | .ptxt => 0
  | .phex => 0
  | .cmpr => 0
  | .htxt => 0
  | .hhex => 0
  | .rdh i => i.setWidth 24
  | .rdw j => j
  | .rds s => s.setWidth 24

/-- `cmd = OP * 2^24 + ARG` (R90). -/
def encode (i : Instr) : Word := opcode i ++ argOf i

/-! The opcode table in match/mask form (R92), as spec/opcode_table.json prints it. -/

/-- One row: a word belongs to it when `word & mask == pattern`. -/
structure OpRow where
  mnemonic : String
  pattern : Word
  mask : Word
  deriving DecidableEq, Repr

/-- The twelve rows of R92. -/
def opcodeRows : List OpRow :=
  [⟨"NOP", 0x00000000#32, 0xFFFFFFFF#32⟩, ⟨"CLR", 0x01000000#32, 0xFFFFFFFF#32⟩,
   ⟨"PUSH", 0x02000000#32, 0xFFFFFF00#32⟩, ⟨"INIT", 0x03000000#32, 0xFFFFFFFF#32⟩,
   ⟨"PTXT", 0x04000000#32, 0xFFFFFFFF#32⟩, ⟨"PHEX", 0x05000000#32, 0xFFFFFFFF#32⟩,
   ⟨"CMPR", 0x06000000#32, 0xFFFFFFFF#32⟩, ⟨"HTXT", 0x07000000#32, 0xFFFFFFFF#32⟩,
   ⟨"HHEX", 0x08000000#32, 0xFFFFFFFF#32⟩, ⟨"RDH", 0x09000000#32, 0xFFFFFFF8#32⟩,
   ⟨"RDW", 0x0A000000#32, 0xFF000000#32⟩, ⟨"RDS", 0x0B000000#32, 0xFFFFFFFC#32⟩]

/-- Does a word match a row's pattern under its mask (R92)? -/
def OpRow.accepts (r : OpRow) (w : Word) : Bool := w &&& r.mask == r.pattern

/-- The mnemonic of a command (R92). -/
def mnemonic : Instr → String
  | .nop => "NOP"
  | .clr => "CLR"
  | .push _ => "PUSH"
  | .init => "INIT"
  | .ptxt => "PTXT"
  | .phex => "PHEX"
  | .cmpr => "CMPR"
  | .htxt => "HTXT"
  | .hhex => "HHEX"
  | .rdh _ => "RDH"
  | .rdw _ => "RDW"
  | .rds _ => "RDS"

/-! The opcode table's numbering. A command word is presented whole on the command port (R71), so its bits are
the table's bits and there is no byte order to choose. -/

/-- The command word of a table row's word `w` of `nbits` bits: the bits above `nbits` are zero. -/
def tableWord (nbits w : Nat) : Word := BitVec.ofNat 32 (w % 2 ^ min nbits 32)

/-- The command the decoder reads from a table word. -/
def decodeTableWord (nbits w : Nat) : Option Instr :=
  match decode (tableWord nbits w) with
  | .legal i => some i
  | .illegal _ => none

end Sys2Proof
end

