-- ==== Sys2Proof/Config.lean ====
section
/-! DEFINITION. What an implementation fixes (00_scope.md R9) and the free values: what the spec leaves unspecified
and the engine goes on with. A free value is opaque: no proof can see it. -/
namespace Sys2Proof

/-- The implementation parameters. `IBUF_BYTES` is the only open one (R9, 92_eei_decisions.md D3). -/
structure Config where
  ibufBytes : Nat
  deriving DecidableEq, Repr

/-- The constraint of R9: `1 <= IBUF_BYTES <= 67108855`. -/
abbrev Config.InRange (c : Config) : Prop := 1 ≤ c.ibufBytes ∧ c.ibufBytes ≤ 67108855

/-- What a preprocessor keeps while packing (R35): the accumulation word, how many units are in it, how many
words are done, and the 64-bit length. The source names only "the accumulation"; which parts there are and their widths
are the model's choice (DESIGN CHOICE, log entry 18). -/
structure Scratch where
  acc : Word
  count : Nat
  words : Nat
  bits : BitVec 64
  deriving DecidableEq, Repr, Inhabited

/-- What `IBUF[k]` holds when nothing has written it since reset event number `epoch` (R63, 93 U5; log entry 5). -/
opaque Config.unwrittenByte (epoch k : Nat) : Byte

/-- What `MBUF[j]` holds when nothing has written it since reset event number `epoch` (R63, 93 U5; log entry 5). -/
opaque Config.unwrittenWord (epoch j : Nat) : Word

/-- The working variables after a command that used them (R30, 93 U6; log entry 7). -/
opaque Config.freeWork (draw : Nat) : Words8

/-- The message schedule after a command that used it (R31, 93 U6; log entry 7). -/
opaque Config.freeSched (draw : Nat) : Vector Word 64

/-- The preprocessor scratch after a command that used it (R35, 93 U6; log entry 7). -/
opaque Config.freeScratch (draw : Nat) : Scratch

/-- `BLK` after a command that used it (R37, 93 U6; log entry 7). -/
opaque Config.freeBlk (draw : Nat) : Nat

/-- `T` after a command that used it (R37, 93 U6; log entry 7). -/
opaque Config.freeT (draw : Nat) : Fin 64

end Sys2Proof
end

