-- ==== Sys2Proof/Machine/Primitives.lean ====
section
/-! DEFINITION. Word operations and the six primitives (40_primitives.md R120 to R129): total pure functions that
set no flag and raise no error. -/
namespace Sys2Proof.Machine

/-- `add32` of two operands (R121): the exact sum narrowed to 32 bits. More operands are added in any grouping. -/
def add32 (x y : Word) : Word := BitVec.ofNat 32 (x.toNat + y.toNat)

/-- `shr(x, n)`, logical right shift (R122). -/
def shr (x : Word) (n : Nat) : Word := x >>> n

/-- `rotr(x, n)` (R123), for every `n` by its amount modulo 32 (93 U10); the spec uses amounts 1 to 31 only. -/
def rotr (x : Word) (n : Nat) : Word := (x >>> (n % 32)) ||| (x <<< (32 - n % 32))

/-- R124. -/
def lsig0 (x : Word) : Word := rotr x 7 ^^^ rotr x 18 ^^^ shr x 3

/-- R125. -/
def lsig1 (x : Word) : Word := rotr x 17 ^^^ rotr x 19 ^^^ shr x 10

/-- R126. -/
def usig0 (x : Word) : Word := rotr x 2 ^^^ rotr x 13 ^^^ rotr x 22

/-- R127. -/
def usig1 (x : Word) : Word := rotr x 6 ^^^ rotr x 11 ^^^ rotr x 25

/-- R128. -/
def choice (x y z : Word) : Word := (x &&& y) ^^^ (~~~x &&& z)

/-- R129. -/
def majority (x y z : Word) : Word := (x &&& y) ^^^ (x &&& z) ^^^ (y &&& z)

end Sys2Proof.Machine
end

