-- ==== Sys2Proof/Machine/Operands.lean ====
section
/-! DEFINITION. The operand forms: which word an index operand names, how counts become response words, the derived
capacity of the message buffer and the arithmetic of lengths and counts. -/
namespace Sys2Proof.Machine

/-- `H[i]` for a natural index below 8 (R21: `H[0]` is the first; log entry 20). -/
def wordAt (v : Words8) (i : Nat) : Word :=
  match i with
  | 0 => v.a
  | 1 => v.b
  | 2 => v.c
  | 3 => v.d
  | 4 => v.e
  | 5 => v.f
  | 6 => v.g
  | _ => v.h

/-- The operand of `RDH`: `i = ARG[2:0]`, unsigned (R91, R250). -/
abbrev hashIndex (i : BitVec 3) : Nat := i.toNat

/-- The operand of `RDW`: `j = ARG[23:0]`, unsigned (R91, R252). -/
abbrev messageIndex (j : BitVec 24) : Nat := j.toNat

/-- The words in index order, `H[0]` first (R24, R70). -/
def wordList (v : Words8) : List Word := [v.a, v.b, v.c, v.d, v.e, v.f, v.g, v.h]

/-- Word by word `add32` (step 4 of R212). -/
def addWords (u v : Words8) : Words8 :=
  ⟨add32 u.a v.a, add32 u.b v.b, add32 u.c v.c, add32 u.d v.d,
   add32 u.e v.e, add32 u.f v.f, add32 u.g v.g, add32 u.h v.h⟩

/-- `zext_32` of a count (R241, R254); counts are below `2^32` on the hardware (R9). -/
def zext32 (n : Nat) : Word := BitVec.ofNat 32 n

/-- `ceil(n / m)` on natural numbers, for `m > 0` (R18). -/
def ceilDiv (n m : Nat) : Nat := (n + (m - 1)) / m

/-- `MBUF_WORDS = 16 * ceil((IBUF_BYTES + 9) / 64)` (R10). -/
def mbufWords (c : Config) : Nat := 16 * ceilDiv (c.ibufBytes + 9) 64

/-- `(bits >> 32) & 0xFFFFFFFF` (R132). -/
def lengthHigh (bits : BitVec 64) : Word := bits.extractLsb' 32 32

/-- `bits & 0xFFFFFFFF` (R132). -/
def lengthLow (bits : BitVec 64) : Word := bits.extractLsb' 0 32

end Sys2Proof.Machine
end

