-- ==== Sys2Proof/Machine/Compression.lean ====
section
/-! DEFINITION. The pure functions of the message schedule expander (43_schedule_expander.md R200 to R204) and of the
compression engine (44_compression.md R211 to R214). -/
namespace Sys2Proof.Machine

/-- `w[i]` of the recurrence, for `i` at least 16 (R202). -/
def scheduleWord (w : List Word) (i : Nat) : Word :=
  add32 (add32 (add32 (lsig1 (w.getD (i - 2) 0)) (w.getD (i - 7) 0)) (lsig0 (w.getD (i - 15) 0)))
    (w.getD (i - 16) 0)

/-- Appending `n` recurrence words in ascending order of index (R202). -/
def expandFrom : Nat → List Word → List Word
  | 0, w => w
  | n + 1, w => expandFrom n (w ++ [scheduleWord w w.length])

/-- `expand` (R203): the sixteen words of the block, then forty-eight from the recurrence. Log entry 20. -/
def expand (block : List Word) : List Word := expandFrom 48 block

/-- `T1` of a round (R211). -/
def roundT1 (v : Words8) (k x : Word) : Word :=
  add32 (add32 (add32 (add32 v.h (usig1 v.e)) (choice v.e v.f v.g)) k) x

/-- `T2` of a round (R211). -/
def roundT2 (v : Words8) : Word := add32 (usig0 v.a) (majority v.a v.b v.c)

/-- `round` (R211): every right-hand side is an old value. -/
def mixRound (v : Words8) (k x : Word) : Words8 :=
  ⟨add32 (roundT1 v k x) (roundT2 v), v.a, v.b, v.c, add32 v.d (roundT1 v k x), v.e, v.f, v.g⟩

/-- The sixty-four rounds in ascending order, round `t` with `K[t]` and `w[t]` (step 3 of R212). -/
def rounds (v : Words8) (w : List Word) : Words8 :=
  (List.range 64).foldl (fun v t => mixRound v (kAt t) (w.getD t 0)) v

/-- `compress_block` (R212): expand, copy, sixty-four rounds, chain. -/
def compressBlock (hin : Words8) (block : List Word) : Words8 :=
  addWords hin (rounds hin (expand block))

/-- Block `n` of a message: words `16n .. 16n+15` (R62, R213). -/
def blockOf (m : List Word) (n : Nat) : List Word := (m.drop (16 * n)).take 16

/-- `compress_all` (R213): the whole blocks strictly in sequence; log entry 20. -/
def compressAll (hin : Words8) (m : List Word) : Words8 :=
  (List.range (m.length / 16)).foldl (fun h n => compressBlock h (blockOf m n)) hin

end Sys2Proof.Machine
end

