-- ==== Sys2Proof/Machine/Flags.lean ====
section
/-! DEFINITION. The `STATUS` register's flags (10_state.md R27 to R29; 60_exceptions.md R281): their bits, reading
one, setting one, clearing all. There are no other flags (R29). -/
namespace Sys2Proof.Machine

/-- The three errors (R281). -/
inductive ErrFlag where
  /-- An invalid hexadecimal digit in the input. -/
  | ehex
  /-- A `PUSH` with the input buffer full. -/
  | eovf
  /-- An illegal command word or an out-of-range `RDW`. -/
  | eill
  deriving DecidableEq, Repr

/-- The flag's bit number in `STATUS` (R27). -/
def flagBit : ErrFlag → Nat
  | .ehex => 0
  | .eovf => 1
  | .eill => 2

/-- The error's code: its flag's bit value in `STATUS` (R281). -/
def flagCode : ErrFlag → Word
  | .ehex => 0x1#32
  | .eovf => 0x2#32
  | .eill => 0x4#32

/-- Is the flag set? -/
def flagSet (status : Word) (e : ErrFlag) : Bool := status.getLsbD (flagBit e)

/-- Setting a flag; one already set stays set, and the others keep their values (R28). -/
def setFlag (status : Word) (e : ErrFlag) : Word := status ||| flagCode e

/-- `STATUS` with all three flags clear (R244). -/
def clearFlags : Word := 0

end Sys2Proof.Machine
end

