-- ==== Sys2Proof/Machine/Padding.lean ====
section
/-! DEFINITION. The pure functions of the two preprocessors: `pad_text` (41_text_preprocessor.md R150 to R155),
`hexval` and `pad_hex` (42_hex_preprocessor.md R170 to R178), and the packing orders of 20_memory.md R66 to R69. -/
namespace Sys2Proof.Machine

/-- The word `{b3, b2, b1, b0}`, most significant byte first (R18, R66). -/
def bytesWord (b3 b2 b1 b0 : Byte) : Word :=
  BitVec.ofNat 32 (b3.toNat * 2 ^ 24 + b2.toNat * 2 ^ 16 + b1.toNat * 2 ^ 8 + b0.toNat)

/-- `byte(u, k)`: the stream's byte, or zero past its end (R152, R155). -/
def byteAt (u : List Byte) (k : Nat) : Byte := u.getD k 0

/-- Packing a byte stream big-endian, the last group left-aligned with zeros (R66, R68, R152). -/
def packBytes (u : List Byte) : List Word :=
  (List.range (ceilDiv u.length 4)).map fun j =>
    bytesWord (byteAt u (4 * j)) (byteAt u (4 * j + 1)) (byteAt u (4 * j + 2)) (byteAt u (4 * j + 3))

/-- `nib(e, k)`: the stream's digit, or zero past its end (R175, R178). -/
def nibAt (e : List Nibble) (k : Nat) : Nibble := e.getD k 0

/-- Eight digits from position `k`, most significant nibble first (R67, R178). -/
def nibblesWord (e : List Nibble) (k : Nat) : Word :=
  BitVec.ofNat 32
    ((nibAt e k).toNat * 2 ^ 28 + (nibAt e (k + 1)).toNat * 2 ^ 24 + (nibAt e (k + 2)).toNat * 2 ^ 20 +
     (nibAt e (k + 3)).toNat * 2 ^ 16 + (nibAt e (k + 4)).toNat * 2 ^ 12 + (nibAt e (k + 5)).toNat * 2 ^ 8 +
     (nibAt e (k + 6)).toNat * 2 ^ 4 + (nibAt e (k + 7)).toNat)

/-- Packing a digit stream, the last group left-aligned with zeros (R67, R68, R175). -/
def packNibbles (e : List Nibble) : List Word :=
  (List.range (ceilDiv e.length 8)).map fun j => nibblesWord e (8 * j)

/-- The number of zero words: `(14 - n0) mod 16`, the non-negative remainder (R153, R176). -/
def zeroCount (n0 : Nat) : Nat := (30 - n0 % 16) % 16

/-- The zero words and the two length words, high word first (R153, R154, R69, R176, R177). -/
def finishPadding (packed : List Word) (bits : BitVec 64) : List Word :=
  packed ++ List.replicate (zeroCount packed.length) 0 ++ [lengthHigh bits, lengthLow bits]

/-- `pad_text` (R155): the delimiter byte `0x80`, packing, zero words, the length `8 * L`. For `2^61` bytes or more, where
the spec gives no rule (93 U4) and which no buffer in range holds, the length is kept modulo `2^64`: the model's choice
(DESIGN CHOICE, log entry 19). -/
def padText (s : List Byte) : List Word :=
  finishPadding (packBytes (s ++ [0x80#8])) (BitVec.ofNat 64 (8 * s.length))

/-- `hexval` (R170): the ASCII codes of the digits, both cases; every other code is invalid. -/
def hexval (c : Byte) : Option Nibble :=
  if 0x30 ≤ c.toNat ∧ c.toNat ≤ 0x39 then some (BitVec.ofNat 4 (c.toNat - 0x30))
  else if 0x61 ≤ c.toNat ∧ c.toNat ≤ 0x66 then some (BitVec.ofNat 4 (c.toNat - 0x61 + 10))
  else if 0x41 ≤ c.toNat ∧ c.toNat ≤ 0x46 then some (BitVec.ofNat 4 (c.toNat - 0x41 + 10))
  else none

/-- The values of all the characters, or nothing if one of them is invalid (R171, R182: all are validated first). -/
def hexDigits : List Byte → Option (List Nibble)
  | [] => some []
  | c :: cs =>
    match hexval c, hexDigits cs with
    | some d, some ds => some (d :: ds)
    | _, _ => none

/-- Step 1 of `pad_hex`: a zero digit in front when the count is odd (R172). -/
def evenDigits (d : List Nibble) : List Nibble := if d.length % 2 = 1 then 0 :: d else d

/-- `pad_hex` (R178) on digit values, so that an invalid character cannot be presented to it (R171, 93 U2).
For `2^62` digits or more the length is kept modulo `2^64`: the model's choice (DESIGN CHOICE, log entry 19). -/
def padHex (d : List Nibble) : List Word :=
  finishPadding (packNibbles (evenDigits d ++ [8#4])) (BitVec.ofNat 64 (4 * (evenDigits d).length))

/-- The bytes `B[m] = 16 * d'[2m] + d'[2m+1]` that an even digit sequence stands for (R67, R179). -/
def digitBytes : List Nibble → List Byte
  | hi :: lo :: rest => BitVec.ofNat 8 (16 * hi.toNat + lo.toNat) :: digitBytes rest
  | _ => []

end Sys2Proof.Machine
end

