-- ==== Sys2Proof/Machine/State.lean ====
section
/-! DEFINITION. The state of the engine (10_state.md R20) between two commands, with its two ports and its parameter,
as plain data; the reasons a step can stop; the state right after reset (R40, R310). -/
namespace Sys2Proof.Machine

/-- What the host presents to the engine (R98, R310, R311). -/
inductive HostEvent where
  /-- A command word on the command port. -/
  | cmd (w : Word)
  /-- `rst` asserted while no command is in progress. -/
  | rst
  /-- A command word accepted, and `rst` asserted before its response (R311). -/
  | rstDuring (w : Word)
  deriving DecidableEq, Repr

/-- `PHASE`: which part of a command is running (R37). Between commands it is idle (R98, R310); log entry 9. R37 leaves
its width and encoding unspecified: these three values are the model's choice (DESIGN CHOICE, log entry 18). -/
inductive Phase where
  | idle
  | preprocessing
  | compressing
  deriving DecidableEq, Repr

/-- Everything the spec gives the machine, in the order of the table in R20, then the ports and the parameter (log
entries 1, 2, 3), then the model's own counters for free values (log entries 5, 7). -/
structure State where
  /-- `H[0..7]`, R21. -/
  h : Words8
  /-- `LEN`, R25. -/
  len : Nat
  /-- `NWORDS`, R26. -/
  nwords : Nat
  /-- `STATUS`, R27. -/
  status : Word
  /-- `IBUF`, R33: (index, byte) pairs, indices rising. -/
  ibuf : List Host.Cell
  /-- `MBUF`, R34: (index, word) pairs, indices rising. -/
  mbuf : List (Nat × BitVec 32)
  /-- `a..h`, hidden, R30. -/
  work : Words8
  /-- `W[0..63]`, hidden, R31. -/
  sched : Vector Word 64
  /-- The preprocessor scratch, hidden, R35; its parts are the model's choice (log entry 18). -/
  scratch : Scratch
  /-- `PHASE`, hidden, R37. -/
  phase : Phase
  /-- `BLK`, hidden, R37. Its width is unspecified: a natural number is the model's choice (log entry 18). -/
  blk : Nat
  /-- `T`, hidden, R37. Its encoding is unspecified: a number from 0 to 63 is the model's choice (log entry 18). -/
  t : Fin 64
  /-- The parameter `IBUF_BYTES`, R9. -/
  cfg : Config
  /-- The command port and `rst`: what the host still presents, oldest first, R98. -/
  inputs : List HostEvent
  /-- The response port: the response of the latest step, if it gave one, R97, R98. -/
  rsp : Option Word
  /-- Reset events so far; the model's own. -/
  epoch : Nat
  /-- Free values of the hidden state used so far; the model's own. -/
  draws : Nat
  deriving DecidableEq, Repr

/-- `cmd_ready`: the engine is idle (R98). -/
def State.cmdReady (s : State) : Bool := s.phase = .idle

/-- Where the machine stops with a fault. No state that meets the invariant of R41 reaches one (R65). -/
inductive Fault where
  /-- A preprocessor reads `IBUF` at an index at or above `IBUF_BYTES`: raised by PTXT, PHEX, HTXT and HHEX when
  `LEN > IBUF_BYTES`. Safe: R65 says it cannot happen. -/
  | ibufRange
  /-- An access to `MBUF` at an index at or above `MBUF_WORDS`: raised by PTXT, PHEX, CMPR, HTXT, HHEX and RDW when
  `LEN` or `NWORDS` is above its bound. Safe: R65 says it cannot happen. -/
  | mbufRange
  deriving DecidableEq, Repr

/-- Where the model gives a step no meaning. No state that meets the invariant of R41 reaches one. -/
inductive Refusal where
  /-- An instruction without a meaning yet, by its mnemonic: raised by exec. Safe. -/
  | notModelled (mnemonic : String)
  /-- `CMPR`, `HTXT` or `HHEX` on a word count that is not a multiple of 16 (93 U3: refuse). Safe. -/
  | illFormedMessage
  /-- A step from a state in the middle of a command: raised by step (R14 gives steps between commands only). Safe. -/
  | midCommand
  deriving DecidableEq, Repr

/-- The outcome of a command's meaning. -/
abbrev Result := Host.Outcome State Fault Refusal

/-- The reset state for a given parameter (R40). The hidden state and the model's own fields have the values that log
entries 2, 3, 5, 7 and 8 name. -/
def State.resetWith (c : Config) : State where
  h := iv
  len := 0
  nwords := 0
  status := 0
  ibuf := []
  mbuf := []
  work := ⟨0, 0, 0, 0, 0, 0, 0, 0⟩
  sched := Vector.replicate 64 0
  scratch := ⟨0, 0, 0, 0⟩
  phase := .idle
  blk := 0
  t := 0
  cfg := c
  inputs := []
  rsp := none
  epoch := 0
  draws := 0

/-- The machine right after reset (R40, R310), with the buffer size of the spec's test vectors (log entry 1). -/
def State.reset : State := State.resetWith ⟨128⟩

end Sys2Proof.Machine
end

