-- ==== Sys2Proof/Machine/Ops.lean ====
section
/-! DEFINITION. The named operations over memory and registers that the meanings share: the two memories (20_memory.md
R60 to R65), raising an error and clearing the errors (60_exceptions.md R280, R288), the response (R241), the
preprocessor runs, the compression run, an illegal word (R283) and reset (R310, R311). -/
namespace Sys2Proof.Machine

/-! Memories as lists of (index, element) pairs with rising indices. -/

/-- The canonical form: indices strictly rising. An unlisted element has no fixed value, so no entry can repeat it. -/
abbrev Memory.wf {n : Nat} (m : List (Nat × BitVec n)) : Prop := m.Pairwise fun x y => x.1 < y.1

/-- The element written at an index, if one was. -/
def Memory.read? {n : Nat} : List (Nat × BitVec n) → Nat → Option (BitVec n)
  | [], _ => none
  | (a, v) :: m, k => if a = k then some v else Memory.read? m k

/-- Replacing one element and nothing else (R63), keeping the indices rising. -/
def Memory.write {n : Nat} : List (Nat × BitVec n) → Nat → BitVec n → List (Nat × BitVec n)
  | [], k, v => [(k, v)]
  | (a, x) :: m, k, v =>
    if k < a then (k, v) :: (a, x) :: m
    else if k = a then (k, v) :: m
    else (a, x) :: Memory.write m k v

/-- Writing consecutive elements in ascending order from an index (R62). -/
def Memory.writeFrom {n : Nat} : List (Nat × BitVec n) → Nat → List (BitVec n) → List (Nat × BitVec n)
  | m, _, [] => m
  | m, k, v :: vs => Memory.writeFrom (Memory.write m k v) (k + 1) vs

/-- `MemRead(IBUF, k, 8)` (R63): the latest write, or the unknown content of an element never written since reset. -/
def readIbuf (s : State) (k : Nat) : Byte :=
  (Memory.read? s.ibuf k).getD (Config.unwrittenByte s.epoch k)

/-- `MemRead(MBUF, j, 32)` (R63). -/
def readMbuf (s : State) (j : Nat) : Word :=
  (Memory.read? s.mbuf j).getD (Config.unwrittenWord s.epoch j)

/-- `MemWrite(IBUF, k, 8, b)` (R63). -/
def writeIbuf (s : State) (k : Nat) (b : Byte) : State := { s with ibuf := Memory.write s.ibuf k b }

/-- The input: `IBUF[0 .. LEN-1]` (R33). -/
def inputBytes (s : State) : List Byte := (List.range s.len).map (readIbuf s)

/-- The padded message: `MBUF[0 .. NWORDS-1]` (R34). -/
def messageWords (s : State) : List Word := (List.range s.nwords).map (readMbuf s)

/-! Errors and the response. -/

/-- `raise E` (R280): the flag is set and nothing else happens. The engine's one exception entry. -/
def raise (e : ErrFlag) (s : State) : State := { s with status := setFlag s.status e }

/-- All error flags cleared (R288): the engine's one return from an error, used by `CLR`. -/
def clearErrors (s : State) : State := { s with status := clearFlags }

/-- `rsp <- v`: the command's one response (R97). -/
def respond (s : State) (v : Word) : State := { s with rsp := some v }

/-- `rsp <- STATUS`, after the command's effects (R241). -/
def respondStatus (s : State) : State := respond s s.status

/-- An `ILLEGAL` word (R283): `EILL`, no other state, `rsp <- STATUS` with the flag set. -/
def execIllegal (s : State) : State := respondStatus (raise .eill s)

/-! Sequencing of meanings. -/

/-- Going on from a next state; a stop stays. -/
def andThen (r : Result) (f : State → Result) : Result :=
  match r with
  | .next s => f s
  | .fault x => .fault x
  | .refused x => .refused x

/-! Register and buffer operations. -/

/-- `H <- IV` (R215). -/
def loadIv (s : State) : State := { s with h := iv }

/-- `NWORDS <- 0` with `MBUF` not written: no padded message (R157, R181, R182). -/
def dropMessage (s : State) : State := { s with nwords := 0 }

/-- The preprocessor has run: its scratch is unspecified (R35). -/
def drawScratch (s : State) : State :=
  { s with scratch := Config.freeScratch s.draws, draws := s.draws + 1 }

/-- The compression engine has run: `a..h`, `W`, `BLK` and `T` are unspecified (R30, R31, R37, R216). -/
def drawCompression (s : State) : State :=
  { s with
    work := Config.freeWork s.draws
    sched := Config.freeSched s.draws
    blk := Config.freeBlk s.draws
    t := Config.freeT s.draws
    draws := s.draws + 1 }

/-- `MBUF[0 .. n-1] <- M` and `NWORDS <- n` (R156, R180). -/
def storeMessage (s : State) (m : List Word) : State :=
  { s with mbuf := Memory.writeFrom s.mbuf 0 m, nwords := m.length }

/-- Storing a preprocessor's result. An index at or above `MBUF_WORDS` does not exist (R60). -/
def putMessage (s : State) (m : List Word) : Result :=
  if m.length ≤ mbufWords s.cfg then .next (drawScratch (storeMessage s m)) else .fault .mbufRange

/-- `H <- compress_all(H, MBUF[0 .. NWORDS-1])` (R216). -/
def foldMessage (s : State) : State := { s with h := compressAll s.h (messageWords s) }

/-- The text preprocessor on the input buffer (R156; R157 with `EOVF` set). -/
def runPadText (s : State) : Result :=
  if flagSet s.status .eovf then .next (dropMessage s)
  else if s.len ≤ s.cfg.ibufBytes then putMessage s (padText (inputBytes s))
  else .fault .ibufRange

/-- The hex preprocessor on the input buffer (R180; R181 with `EOVF` set; R182 with an invalid digit). -/
def runPadHex (s : State) : Result :=
  if flagSet s.status .eovf then .next (dropMessage s)
  else if s.len ≤ s.cfg.ibufBytes then
    match hexDigits (inputBytes s) with
    | some d => putMessage s (padHex d)
    | none => .next (drawScratch (dropMessage (raise .ehex s)))
  else .fault .ibufRange

/-- The compression engine on the padded message, from the current `H` (R216). It looks at no error flag. -/
def runCompress (s : State) : Result :=
  if s.nwords % 16 = 0 then
    if s.nwords ≤ mbufWords s.cfg then .next (drawCompression (foldMessage s)) else .fault .mbufRange
  else .refused .illFormedMessage

/-- The last act of a command whose response is `STATUS` (R241). -/
def finish (s : State) : Result := .next (respondStatus s)

/-! Reset. -/

/-- The reset event (R310), also when it abandons a command (R311): the reset values; memories and hidden state
unspecified; no response. The parameter and what the host still presents are not the engine's to reset. -/
def resetEvent (s : State) : State :=
  drawScratch (drawCompression
    { State.resetWith s.cfg with inputs := s.inputs, epoch := s.epoch + 1, draws := s.draws })

/-- No host event: the idle engine waits (R305), and no response is valid (R98). -/
def idleStep (s : State) : State := { s with rsp := none }

/-- Accepting the event at the head of the port: what is left of the host's events. -/
def takeEvent (s : State) (rest : List HostEvent) : State := { s with inputs := rest }

end Sys2Proof.Machine
end

