-- ==== Sys2Proof/Machine/Compress.lean ====
section
/-! DEFINITION. The compression engine's commands INIT and CMPR (44_compression.md R215 to R217). -/
namespace Sys2Proof.Machine

/-- `INIT` (R215). -/
def execInit (s : State) : Result := finish (loadIv s)

/-- `CMPR` (R216, R217). -/
def execCmpr (s : State) : Result := andThen (runCompress s) finish

end Sys2Proof.Machine
end

