-- ==== Sys2Proof/Machine/Digest.lean ====
section
/-! DEFINITION. The entry points HTXT and HHEX (45_host_commands.md R248, R249), in the internal order of 10_state.md
R38: `H <- IV`, the preprocessor, the block loop, one response at the end. -/
namespace Sys2Proof.Machine

/-- `HTXT` (R248): the effects of `INIT`, `PTXT`, `CMPR`. -/
def execHtxt (s : State) : Result := andThen (andThen (runPadText (loadIv s)) runCompress) finish

/-- `HHEX` (R249): the effects of `INIT`, `PHEX`, `CMPR`. -/
def execHhex (s : State) : Result := andThen (andThen (runPadHex (loadIv s)) runCompress) finish

end Sys2Proof.Machine
end

