-- ==== Sys2Proof/Machine/Input.lean ====
section
/-! DEFINITION. Input loading: PUSH (45_host_commands.md R246, R247). -/
namespace Sys2Proof.Machine

/-- The two cases of `PUSH` (R246): append the byte, or raise `EOVF` and drop it. -/
def pushByte (s : State) (b : Byte) : State :=
  if s.len < s.cfg.ibufBytes then { writeIbuf s s.len b with len := s.len + 1 } else raise .eovf s

/-- `PUSH b` (R246). -/
def execPush (b : BitVec 8) (s : State) : Result := finish (pushByte s b)

end Sys2Proof.Machine
end

