-- ==== Sys2Proof/Machine/Preprocess.lean ====
section
/-! DEFINITION. The preprocessor commands PTXT (41_text_preprocessor.md R156, R157) and PHEX (42_hex_preprocessor.md
R180 to R182). -/
namespace Sys2Proof.Machine

/-- `PTXT` (R156, R157). -/
def execPtxt (s : State) : Result := andThen (runPadText s) finish

/-- `PHEX` (R180, R181, R182). -/
def execPhex (s : State) : Result := andThen (runPadHex s) finish

end Sys2Proof.Machine
end

