-- ==== Sys2Proof/Machine/ReadOut.lean ====
section
/-! DEFINITION. The read-out commands RDH, RDW and RDS (45_host_commands.md R250, R252, R254). -/
namespace Sys2Proof.Machine

/-- `RDH i` (R250). -/
def execRdh (i : BitVec 3) (s : State) : Result := .next (respond s (wordAt s.h (hashIndex i)))

/-- `RDW j` (R252): the message word, or `EILL` at or above `NWORDS`. -/
def execRdw (j : BitVec 24) (s : State) : Result :=
  if messageIndex j < s.nwords then
    if messageIndex j < mbufWords s.cfg then .next (respond s (readMbuf s (messageIndex j)))
    else .fault .mbufRange
  else finish (raise .eill s)

/-- `RDS s` (R254). The term with `s = 3` is no command; it acts as the illegal word it would be (R94; log entry 15). -/
def execRds (sel : BitVec 2) (s : State) : Result :=
  match sel.toNat with
  | 0 => .next (respond s s.status)
  | 1 => .next (respond s (zext32 s.len))
  | 2 => .next (respond s (zext32 s.nwords))
  | _ => .next (execIllegal s)

end Sys2Proof.Machine
end

