-- ==== Sys2Proof/Machine/System.lean ====
section
/-! DEFINITION. The system commands NOP and CLR (45_host_commands.md R243, R244). -/
namespace Sys2Proof.Machine

/-- `NOP` (R243): no state written. -/
def execNop (s : State) : Result := finish s

/-- `CLR` (R244): `LEN`, `NWORDS`, `STATUS <- 0`; `H` and the memories' contents stay. -/
def execClr (s : State) : Result := finish (clearErrors { s with len := 0, nwords := 0 })

end Sys2Proof.Machine
end

