-- ==== Sys2Proof/Machine/Dispatch.lean ====
section
/-! DEFINITION. One arm per command (30_encoding.md R92). -/
namespace Sys2Proof.Machine

def exec (i : Instr) (s : State) : Host.Outcome State Fault Refusal :=
  match i with
  | .nop => Sys2Proof.Machine.execNop s
  | .clr => Sys2Proof.Machine.execClr s
  | .push b => Sys2Proof.Machine.execPush b s
  | .init => Sys2Proof.Machine.execInit s
  | .ptxt => Sys2Proof.Machine.execPtxt s
  | .phex => Sys2Proof.Machine.execPhex s
  | .cmpr => Sys2Proof.Machine.execCmpr s
  | .htxt => Sys2Proof.Machine.execHtxt s
  | .hhex => Sys2Proof.Machine.execHhex s
  | .rdh i3 => Sys2Proof.Machine.execRdh i3 s
  | .rdw j => Sys2Proof.Machine.execRdw j s
  | .rds sel => Sys2Proof.Machine.execRds sel s

end Sys2Proof.Machine
end

