-- ==== Sys2Proof/Machine/Step.lean ====
section
/-! DEFINITION. One step: the engine takes the host's next event, and a command word is decoded and executed to its
response (00_scope.md R14, 45_host_commands.md R240). -/
namespace Sys2Proof.Machine

/-- Executing a command word (R240): decode; an illegal word raises `EILL`; otherwise the command's meaning. -/
def runWord (w : Word) (s : State) : Host.Outcome State Fault Refusal :=
  match decode w with
  | .legal i => exec i s
  | .illegal _ => .next (execIllegal s)

/-- One step. `rst` is taken whatever the engine is doing (R311); a command word only when the engine is ready (R98). -/
def step (s : State) : Host.Outcome State Fault Refusal :=
  match s.inputs with
  | .rst :: rest => .next (resetEvent (takeEvent s rest))
  | .rstDuring _ :: rest => .next (resetEvent (takeEvent s rest))
  | .cmd w :: rest => if s.cmdReady then runWord w (takeEvent s rest) else .refused .midCommand
  | [] => if s.cmdReady then .next (idleStep s) else .refused .midCommand

/-- `s` with a table word as the command the host presents next, the engine ready to accept it. -/
def State.withFetchWord (s : State) (nbits w : Nat) : State :=
  { s with phase := .idle, inputs := .cmd (tableWord nbits w) :: s.inputs }

end Sys2Proof.Machine
end

