-- ==== Sys2Proof/Machine/Assembler.lean ====
section
/-! DEFINITION. Command sequences as the host writes them: the pseudo-commands (30_encoding.md R100) and the textual
line syntax (R99). No pseudo-command has an encoding of its own, and the engine never sees text. Log entry 16. -/
namespace Sys2Proof.Machine

/-! Pseudo-commands (R100). -/

/-- `PUSHB b1 .. bn`, and `PUSHS` on the codes of its characters. -/
def pushBytes (bs : List Byte) : List Instr := bs.map .push

/-- `DIGEST`: `RDH 0 .. RDH 7`. -/
def digestReads : List Instr := [.rdh 0, .rdh 1, .rdh 2, .rdh 3, .rdh 4, .rdh 5, .rdh 6, .rdh 7]

/-- `HASHT "text"`, the source's `digest_from_text` (R242). -/
def hashText (bs : List Byte) : List Instr := [.clr] ++ pushBytes bs ++ [.htxt] ++ digestReads

/-- `HASHX "digits"`, the source's `digest_from_hex` (R242). -/
def hashHex (cs : List Byte) : List Instr := [.clr] ++ pushBytes cs ++ [.hhex] ++ digestReads

/-! Lines (R99). -/

/-- The separators between a mnemonic and its operands. -/
def isBlank (c : Char) : Bool := c.toNat = 0x20 || c.toNat = 0x09

/-- The rest of a line after its separators. -/
def skipBlanks (cs : List Char) : List Char := cs.dropWhile isBlank

/-- Nothing more on the line, or a comment (`;`). -/
def lineEnds (cs : List Char) : Bool :=
  match skipBlanks cs with
  | [] => true
  | c :: _ => c.toNat = 0x3B

/-- A character of an unquoted operand. -/
def isWordChar (c : Char) : Bool := !(isBlank c) && c.toNat != 0x3B

/-- Can the character stand in quotes: printable ASCII. -/
def isPrintable (c : Char) : Bool := 0x20 ≤ c.toNat && c.toNat ≤ 0x7E

/-- A decimal digit's value. -/
def decDigit (c : Char) : Option Nat :=
  if 0x30 ≤ c.toNat ∧ c.toNat ≤ 0x39 then some (c.toNat - 0x30) else none

/-- A hexadecimal digit's value. -/
def hexDigit (c : Char) : Option Nat :=
  if 0x30 ≤ c.toNat ∧ c.toNat ≤ 0x39 then some (c.toNat - 0x30)
  else if 0x61 ≤ c.toNat ∧ c.toNat ≤ 0x66 then some (c.toNat - 0x61 + 10)
  else if 0x41 ≤ c.toNat ∧ c.toNat ≤ 0x46 then some (c.toNat - 0x41 + 10)
  else none

/-- Digits in a base, after the value read so far. -/
def readDigits (base : Nat) (digit : Char → Option Nat) : Nat → List Char → Option Nat
  | n, [] => some n
  | n, c :: cs =>
    match digit c with
    | some d => readDigits base digit (n * base + d) cs
    | none => none

/-- A decimal number, or a hexadecimal number with `0x` prefix. -/
def readNumber (cs : List Char) : Option Nat :=
  match cs with
  | [] => none
  | [_] => readDigits 10 decDigit 0 cs
  | z :: x :: ds =>
    if z.toNat = 0x30 ∧ x.toNat = 0x78 then
      match ds with
      | [] => none
      | _ :: _ => readDigits 16 hexDigit 0 ds
    else readDigits 10 decDigit 0 cs

/-- One unquoted operand, after at least one separator, and what follows it. -/
def readOperand (cs : List Char) : Option (Nat × List Char) :=
  match cs with
  | [] => none
  | c :: _ =>
    if isBlank c then
      match readNumber ((skipBlanks cs).takeWhile isWordChar) with
      | some n => some (n, (skipBlanks cs).dropWhile isWordChar)
      | none => none
    else none

/-- The operand of `PUSH`: a number, or one printable character in single quotes standing for its code. -/
def readPushOperand (cs : List Char) : Option (Nat × List Char) :=
  match cs with
  | [] => none
  | b :: _ =>
    match skipBlanks cs with
    | q :: c :: q' :: rest =>
      if isBlank b ∧ q.toNat = 0x27 ∧ isPrintable c ∧ q'.toNat = 0x27 then some (c.toNat, rest)
      else readOperand cs
    | _ => readOperand cs

/-- The only operand of a line, below a bound. -/
def onlyOperand (bound : Nat) (r : Option (Nat × List Char)) : Option Nat :=
  match r with
  | some (n, rest) => if n < bound ∧ lineEnds rest then some n else none
  | none => none

/-- The byte operands of `PUSHB`; the first argument bounds their number. That there may be none, and that one may be a
quoted character as for `PUSH`, is the model's choice (DESIGN CHOICE, log entry 16). -/
def readBytes : Nat → List Char → Option (List Byte)
  | 0, cs => if lineEnds cs then some [] else none
  | fuel + 1, cs =>
    if lineEnds cs then some []
    else
      match readPushOperand cs with
      | some (n, rest) =>
        if n < 256 then
          match readBytes fuel rest with
          | some bs => some (BitVec.ofNat 8 n :: bs)
          | none => none
        else none
      | none => none

/-- The only operand of a line, a string of printable characters in double quotes: the characters' codes. -/
def readString (cs : List Char) : Option (List Byte) :=
  match cs with
  | [] => none
  | b :: _ =>
    match skipBlanks cs with
    | [] => none
    | q :: body =>
      let inside := body.takeWhile fun c => c.toNat != 0x22
      match body.dropWhile fun c => c.toNat != 0x22 with
      | [] => none
      | _ :: rest =>
        if isBlank b ∧ q.toNat = 0x22 ∧ inside.all isPrintable ∧ lineEnds rest then
          some (inside.map fun c => BitVec.ofNat 8 c.toNat)
        else none

/-- The operand of `RDS`: a number, or one of the names `STATUS`, `LEN`, `NWORDS`. -/
def readSelector (cs : List Char) : Option Nat :=
  let name := (skipBlanks cs).takeWhile isWordChar
  let rest := (skipBlanks cs).dropWhile isWordChar
  if cs.head?.any isBlank ∧ lineEnds rest then
    if name = ['S', 'T', 'A', 'T', 'U', 'S'] then some 0
    else if name = ['L', 'E', 'N'] then some 1
    else if name = ['N', 'W', 'O', 'R', 'D', 'S'] then some 2
    else onlyOperand 3 (readOperand cs)
  else none

/-- A line's command without an operand. -/
def plainLine (i : Instr) (rest : List Char) : Option (List Instr) :=
  if lineEnds rest then some [i] else none

/-- The commands of one line (R99, R100), or nothing if it is no line; an empty or comment line has no command. -/
def parseLine (line : List Char) : Option (List Instr) :=
  let m := (skipBlanks line).takeWhile isWordChar
  let rest := (skipBlanks line).dropWhile isWordChar
  if m = [] then some []
  else if m = ['N', 'O', 'P'] then plainLine .nop rest
  else if m = ['C', 'L', 'R'] then plainLine .clr rest
  else if m = ['P', 'U', 'S', 'H'] then
    (onlyOperand 256 (readPushOperand rest)).map fun n => [.push (BitVec.ofNat 8 n)]
  else if m = ['I', 'N', 'I', 'T'] then plainLine .init rest
  else if m = ['P', 'T', 'X', 'T'] then plainLine .ptxt rest
  else if m = ['P', 'H', 'E', 'X'] then plainLine .phex rest
  else if m = ['C', 'M', 'P', 'R'] then plainLine .cmpr rest
  else if m = ['H', 'T', 'X', 'T'] then plainLine .htxt rest
  else if m = ['H', 'H', 'E', 'X'] then plainLine .hhex rest
  else if m = ['R', 'D', 'H'] then
    (onlyOperand 8 (readOperand rest)).map fun n => [.rdh (BitVec.ofNat 3 n)]
  else if m = ['R', 'D', 'W'] then
    (onlyOperand (2 ^ 24) (readOperand rest)).map fun n => [.rdw (BitVec.ofNat 24 n)]
  else if m = ['R', 'D', 'S'] then
    (readSelector rest).map fun n => [.rds (BitVec.ofNat 2 n)]
  else if m = ['P', 'U', 'S', 'H', 'S'] then (readString rest).map pushBytes
  else if m = ['P', 'U', 'S', 'H', 'B'] then (readBytes rest.length rest).map pushBytes
  else if m = ['D', 'I', 'G', 'E', 'S', 'T'] then (if lineEnds rest then some digestReads else none)
  else if m = ['H', 'A', 'S', 'H', 'T'] then (readString rest).map hashText
  else if m = ['H', 'A', 'S', 'H', 'X'] then (readString rest).map hashHex
  else none

/-- The command words of one line (R99: the encoding of R90 with the `OP` of R92). -/
def assembleLine (line : List Char) : Option (List Word) :=
  (parseLine line).map fun is => is.map encode

end Sys2Proof.Machine
end

