-- ==== Sys2Proof/Safety.lean ====
section
/-! DEFINITION. The terms that claims use: the invariant of 10_state.md R41, what an observer can see (00_scope.md
R17, 10_state.md R39), the responses of a run, and what frames compare. -/
namespace Sys2Proof.Machine

/-- The next state of an outcome, if it is one. -/
def nextOf (r : Result) : Option State :=
  match r with
  | .next s => some s
  | .fault _ => none
  | .refused _ => none

/-- The invariant of R41 in numbers, with the range of the parameter (R9), the canonical form of the memories, their
index ranges (R60), and the engine idle between commands (R98). -/
abbrev EngineInv (s : State) : Prop :=
  s.cfg.InRange ∧ s.len ≤ s.cfg.ibufBytes ∧ s.nwords ≤ mbufWords s.cfg ∧ s.nwords % 16 = 0 ∧ s.status.toNat < 8 ∧
  Memory.wf s.ibuf ∧ Memory.wf s.mbuf ∧ (∀ x ∈ s.ibuf, x.1 < s.cfg.ibufBytes) ∧
  (∀ x ∈ s.mbuf, x.1 < mbufWords s.cfg) ∧ s.phase = .idle

/-- The padded message, if there is one, is `pad_text` of a byte string or `pad_hex` of a valid digit string that fits
in the input buffer (R41, last clause). -/
def MessageFromPreprocessor (s : State) : Prop :=
  s.nwords = 0 ∨
  ∃ u : List Byte, u.length ≤ s.cfg.ibufBytes ∧
    (messageWords s = padText u ∨ ∃ d, hexDigits u = some d ∧ messageWords s = padHex d)

/-- The observable state (R39) of two states is the same: `H`, `LEN`, `NWORDS`, `STATUS`, the input below `LEN`, the
message below `NWORDS`; and so are the parameter and the host's pending events. -/
def ObsEq (s t : State) : Prop :=
  s.h = t.h ∧ s.len = t.len ∧ s.nwords = t.nwords ∧ s.status = t.status ∧ inputBytes s = inputBytes t ∧
  messageWords s = messageWords t ∧ s.cfg = t.cfg ∧ s.inputs = t.inputs ∧ s.phase = t.phase

/-- Every byte of `IBUF` and every word of `MBUF` reads the same in both states. -/
def SameMemory (s t : State) : Prop :=
  (∀ k, readIbuf t k = readIbuf s k) ∧ ∀ j, readMbuf t j = readMbuf s j

/-- The hidden registers of R30, R31, R35 and R37 are the same in both states. -/
def SameHidden (s t : State) : Prop :=
  t.work = s.work ∧ t.sched = s.sched ∧ t.scratch = s.scratch ∧ t.phase = s.phase ∧ t.blk = s.blk ∧ t.t = s.t

/-- The parameter and the host's pending events, which no command changes (R15, R320). -/
def SameOutside (s t : State) : Prop := t.cfg = s.cfg ∧ t.inputs = s.inputs

/-- `H`, `LEN`, `NWORDS` and `STATUS` are the same in both states. -/
def SameRegisters (s t : State) : Prop :=
  t.h = s.h ∧ t.len = s.len ∧ t.nwords = s.nwords ∧ t.status = s.status

/-- Byte `k` of a word sequence, most significant byte of a word first (R66). -/
def messageByte (m : List Word) (k : Nat) : Byte := (m.getD (k / 4) 0).extractLsb' (24 - 8 * (k % 4)) 8

/-- The prime numbers below a bound, in ascending order (the primes of R130 and R131). -/
def primesBelow (n : Nat) : List Nat :=
  (List.range n).filter fun p => 2 ≤ p && (List.range p).all fun d => d < 2 || p % d != 0

/-- The classes of illegal words R94 lists, by the word's fields. -/
def IllegalClass (w : Word) : Prop :=
  0x0C ≤ (opField w).toNat ∨
  ((opField w).toNat ∈ [0x00, 0x01, 0x03, 0x04, 0x05, 0x06, 0x07, 0x08] ∧ (argField w).toNat ≠ 0) ∨
  ((opField w).toNat = 0x02 ∧ 2 ^ 8 ≤ (argField w).toNat) ∨
  ((opField w).toNat = 0x09 ∧ 2 ^ 3 ≤ (argField w).toNat) ∨
  ((opField w).toNat = 0x0B ∧ (2 ^ 2 ≤ (argField w).toNat ∨ (argField w).toNat % 4 = 3))

/-- The responses of the first `n` steps in order (R17), if all of them answer a next state. -/
def responses : Nat → State → Option (List Word)
  | 0, _ => some []
  | n + 1, s =>
    match step s with
    | .next t => (responses n t).map fun rs => t.rsp.toList ++ rs
    | .fault _ => none
    | .refused _ => none

/-- The host's events that present the commands of a sequence. -/
def presented (is : List Instr) : List HostEvent := is.map fun i => .cmd (encode i)

/-- The commands that run the text preprocessor, the hex preprocessor or the compression engine. -/
def usesHidden : Instr → Bool
  | .nop => false
  | .clr => false
  | .push _ => false
  | .init => false
  | .ptxt => true
  | .phex => true
  | .cmpr => true
  | .htxt => true
  | .hhex => true
  | .rdh _ => false
  | .rdw _ => false
  | .rds _ => false

/-- The commands that write `H` (R22). -/
def writesHash : Instr → Bool
  | .nop => false
  | .clr => false
  | .push _ => false
  | .init => true
  | .ptxt => false
  | .phex => false
  | .cmpr => true
  | .htxt => true
  | .hhex => true
  | .rdh _ => false
  | .rdw _ => false
  | .rds _ => false

/-- The commands that run a preprocessor, the writers of `MBUF` (R34, R60). -/
def runsPreprocessor : Instr → Bool
  | .nop => false
  | .clr => false
  | .push _ => false
  | .init => false
  | .ptxt => true
  | .phex => true
  | .cmpr => false
  | .htxt => true
  | .hhex => true
  | .rdh _ => false
  | .rdw _ => false
  | .rds _ => false

end Sys2Proof.Machine
end

