-- ==== Sys2Proof/Certificates/Slice0/Obligations.lean ====
section
/-! DEFINITION. The statements about the model, each with the rules of spec/ it formalises. Nothing is proved here. -/

open Sys2Proof Sys2Proof.Machine

/-! ## Encoding (30_encoding.md) -/

/-- R90 to R93: every well-formed command, with every operand its encoding admits, is read back from its word. -/
def Obligations.DecodeOfEncode : Prop :=
  ∀ i : Instr, wellFormed i = true → decode (encode i) = .legal i

/-- R90 to R95: a word that decodes to a command is that command's word, so no two words are one command and no bit
of a word is ignored. -/
def Obligations.EncodeOfDecode : Prop :=
  ∀ (w : Word) (i : Instr), decode w = .legal i → wellFormed i = true ∧ encode i = w

/-- R93: the decoder applies the match/mask rows of R92, with the extra condition of `RDS`; a word of no row, or of
the `RDS` row with `s == 3`, is `ILLEGAL`. -/
def Obligations.DecodeFollowsOpcodeTable : Prop :=
  ∀ w : Word,
    (∀ r ∈ opcodeRows, r.accepts w = true → (r.mnemonic = "RDS" → w.extractLsb' 0 2 ≠ 3#2) →
      ∃ i, decode w = .legal i ∧ mnemonic i = r.mnemonic ∧ opField w = opcode i ∧ argField w = argOf i) ∧
    (((∀ r ∈ opcodeRows, r.accepts w = false) ∨
        (w &&& 0xFFFFFFFC#32 = 0x0B000000#32 ∧ w.extractLsb' 0 2 = 3#2)) →
      ∃ why, decode w = .illegal why)

/-- R92: "The patterns are pairwise disjoint, so at most one matches." -/
def Obligations.OpcodeRowsDisjoint : Prop :=
  ∀ (w : Word), ∀ r ∈ opcodeRows, ∀ r' ∈ opcodeRows, r.accepts w = true → r'.accepts w = true → r = r'

/-- R94, R95: exactly the words of the listed classes are illegal; none is executed as `NOP`. -/
def Obligations.IllegalWordClasses : Prop :=
  ∀ w : Word, (∃ why, decode w = .illegal why) ↔ IllegalClass w

/-- 95_test_vectors.md V23: words written out there decode as it says. -/
def Obligations.SampleWordsDecode : Prop :=
  decode 0x00000000#32 = .legal .nop ∧ decode 0x01000000#32 = .legal .clr ∧
  decode 0x020000ff#32 = .legal (.push 0xff) ∧ decode 0x03000000#32 = .legal .init ∧
  decode 0x04000000#32 = .legal .ptxt ∧ decode 0x05000000#32 = .legal .phex ∧
  decode 0x06000000#32 = .legal .cmpr ∧ decode 0x07000000#32 = .legal .htxt ∧
  decode 0x08000000#32 = .legal .hhex ∧ decode 0x09000007#32 = .legal (.rdh 7) ∧
  decode 0x0affffff#32 = .legal (.rdw 16777215) ∧ decode 0x0b000002#32 = .legal (.rds 2)

/-- R100: the pseudo-commands expand as listed; R99: a line's words are its commands' words. The blank before a comment
and that `RDH 8` is no line, although R283 writes the word `0x09000008` so, are the model's choice (log entry 16). -/
def Obligations.PseudoCommandsExpand : Prop :=
  (∀ bs, hashText bs = .clr :: (bs.map .push ++ .htxt :: digestReads)) ∧
  (∀ bs, hashHex bs = .clr :: (bs.map .push ++ .hhex :: digestReads)) ∧
  digestReads = (List.range 8).map (fun k => .rdh (BitVec.ofNat 3 k)) ∧
  parseLine ['P', 'U', 'S', 'H', 'B', ' ', '9', '7', ' ', '0', 'x', '6', '2'] = some (pushBytes [0x61, 0x62]) ∧
  parseLine ['P', 'U', 'S', 'H', 'S', ' ', '"', 'a', 'b', '"'] = some (pushBytes [0x61, 0x62]) ∧
  (∀ bs, pushBytes bs = bs.map .push) ∧
  assembleLine ['P', 'U', 'S', 'H', ' ', '\'', 'a', '\''] = some [0x02000061#32] ∧
  assembleLine ['R', 'D', 'S', ' ', 'N', 'W', 'O', 'R', 'D', 'S', ' ', ';'] = some [0x0B000002#32] ∧
  assembleLine ['R', 'D', 'H', ' ', '8'] = none

/-! ## The step (00_scope.md, 45_host_commands.md, 60_exceptions.md, 70_reset_and_hazards.md) -/

/-- R240: when the word on the command port decodes to a command and the engine is ready, the step is that command's
meaning on the state with the word taken from the port. -/
def Obligations.StepRunsDecodedCommand : Prop :=
  ∀ (s : State) (w : Word) (rest : List HostEvent) (i : Instr),
    s.phase = .idle → s.inputs = .cmd w :: rest → decode w = .legal i →
    step s = exec i { s with inputs := rest }

/-- R283: an illegal word raises `EILL`, changes nothing R283 lists, and responds `STATUS` with the flag set; the rule's five
words are such words. -/
def Obligations.IllegalWordRaisesEill : Prop :=
  (∀ (s : State) (w : Word) (rest : List HostEvent) (why : Illegal),
    s.phase = .idle → s.inputs = .cmd w :: rest → decode w = .illegal why →
    ∃ t, step s = .next t ∧ t.status = s.status ||| 0x4#32 ∧ t.rsp = some t.status ∧ t.h = s.h ∧ t.len = s.len ∧
      t.nwords = s.nwords ∧ flagSet t.status .ehex = flagSet s.status .ehex ∧
      flagSet t.status .eovf = flagSet s.status .eovf ∧ SameMemory s t ∧ t.phase = s.phase ∧ t.cfg = s.cfg ∧
      t.inputs = rest) ∧
  ∀ w ∈ [0x0C000000#32, 0x07000001#32, 0x09000008#32, 0x0B000003#32, 0x02000100#32], ∃ why, decode w = .illegal why

/-- R305, R98: with nothing on its ports the idle engine waits: no state changes and no response is given. The port
fields are the model's own (log entries 2, 3), and that the hidden registers stay is the model's choice (log entry 7). -/
def Obligations.IdleEngineWaits : Prop :=
  ∀ s : State, s.phase = .idle → s.inputs = [] →
    ∃ t, step s = .next t ∧ t.rsp = none ∧ SameRegisters s t ∧ SameMemory s t ∧ SameHidden s t ∧ SameOutside s t

/-- R310, R311: reset, whether or not a command is in progress and whatever its phase, gives the reset values, makes
the engine ready and gives no response; memories are then of unknown content. That the parameter and the host's pending
events stay is the model's choice (log entries 1, 2), and so is the form of the unknown content (log entry 5). -/
def Obligations.ResetEventResets : Prop :=
  ∀ (s : State) (e : HostEvent) (rest : List HostEvent),
    (e = .rst ∨ ∃ w, e = .rstDuring w) → s.inputs = e :: rest →
    ∃ t, step s = .next t ∧ t.h = iv ∧ t.len = 0 ∧ t.nwords = 0 ∧ t.status = 0 ∧ t.cmdReady = true ∧ t.rsp = none ∧
      (∀ k, readIbuf t k = Config.unwrittenByte (s.epoch + 1) k) ∧
      (∀ j, readMbuf t j = Config.unwrittenWord (s.epoch + 1) j) ∧ t.cfg = s.cfg ∧ t.inputs = rest

/-- R40: the values the spec gives for reset. -/
def Obligations.ResetValues : Prop :=
  State.reset.h = iv ∧ State.reset.len = 0 ∧ State.reset.nwords = 0 ∧ State.reset.status = 0 ∧
  State.reset.cmdReady = true ∧ inputBytes State.reset = [] ∧ messageWords State.reset = []

/-- R41: the reset state meets the invariant and the message invariant, for every size of the input buffer. -/
def Obligations.ResetMeetsInvariant : Prop :=
  EngineInv State.reset ∧
  ∀ c : Config, c.InRange → EngineInv (State.resetWith c) ∧ MessageFromPreprocessor (State.resetWith c)

/-- R41: every step keeps the invariant. -/
def Obligations.StepKeepsInvariant : Prop :=
  ∀ s t : State, EngineInv s → step s = .next t → EngineInv t

/-- R14, R65, R320: from a state that meets the invariant every step answers a next state: no access is out of range,
and any sequence of words has an outcome. -/
def Obligations.StepAlwaysAnswers : Prop :=
  ∀ s : State, EngineInv s → ∃ t, step s = .next t

/-- R41, last clause: every step keeps the padded message a preprocessor's result (or absent). -/
def Obligations.StepKeepsMessageInvariant : Prop :=
  ∀ s t : State, MessageFromPreprocessor s → step s = .next t → MessageFromPreprocessor t

/-- R28: over a step, a flag that is set stays set unless the step is a `CLR` or a reset. -/
def Obligations.FlagsStaySetUntilClrOrReset : Prop :=
  ∀ (s t : State) (e : ErrFlag), step s = .next t → flagSet s.status e = true → flagSet t.status e = false →
    ∃ rest, s.inputs = .cmd 0x01000000#32 :: rest ∨ s.inputs = .rst :: rest ∨ ∃ w, s.inputs = .rstDuring w :: rest

/-- R9, R15: no step changes the parameter. -/
def Obligations.StepKeepsParameter : Prop :=
  ∀ s t : State, step s = .next t → t.cfg = s.cfg

/-- R17, R39: two states whose observable state is the same give the same responses for every number of steps: hidden
state, memory contents at or above `LEN` and `NWORDS`, and free values influence no response. -/
def Obligations.ResponsesDependOnObservables : Prop :=
  ∀ s s' : State, ObsEq s s' →
    (∀ t, step s = .next t → ∃ t', step s' = .next t' ∧ ObsEq t t' ∧ t.rsp = t'.rsp) ∧
    ∀ n, responses n s = responses n s'

/-! ## System and input commands (45_host_commands.md) -/

/-- R243. -/
def Obligations.NopOnlyResponds : Prop :=
  encode .nop = 0x00000000#32 ∧
  (∀ s : State, ∃ t, exec .nop s = .next t ∧ t.rsp = some s.status ∧ SameRegisters s t ∧ SameMemory s t ∧
    t.phase = s.phase ∧ SameOutside s t) ∧
  ∃ t, exec .nop State.reset = .next t ∧ t.rsp = some 0x00000000#32

/-- R244, with its "`CLR` is the only command that clears a flag". -/
def Obligations.ClrStartsNewMessage : Prop :=
  encode .clr = 0x01000000#32 ∧
  (∀ s : State, ∃ t, exec .clr s = .next t ∧ t.len = 0 ∧ t.nwords = 0 ∧ t.status = 0 ∧ t.rsp = some 0x00000000#32 ∧
    t.h = s.h ∧ SameMemory s t ∧ t.phase = s.phase ∧ SameOutside s t) ∧
  ∀ (i : Instr) (s t : State) (e : ErrFlag), i ≠ .clr → exec i s = .next t → flagSet s.status e = true →
    flagSet t.status e = true

/-- R246: both cases of `PUSH`, for every byte. -/
def Obligations.PushAppendsOrOverflows : Prop :=
  ∀ (s : State) (b : BitVec 8), (encode (.push b)).toNat = 0x02000000 + b.toNat ∧
    ∃ t, exec (.push b) s = .next t ∧
      (if s.len < s.cfg.ibufBytes then
        t.len = s.len + 1 ∧ t.status = s.status ∧ readIbuf t s.len = b ∧
        (∀ k, k ≠ s.len → readIbuf t k = readIbuf s k)
      else
        t.len = s.len ∧ t.status = s.status ||| 0x2#32 ∧ ∀ k, readIbuf t k = readIbuf s k) ∧
      t.rsp = some t.status ∧ t.h = s.h ∧ t.nwords = s.nwords ∧ (∀ j, readMbuf t j = readMbuf s j) ∧
      t.phase = s.phase ∧ SameOutside s t

/-! ## The preprocessor commands (41_text_preprocessor.md, 42_hex_preprocessor.md) -/

/-- R156: `PTXT` with `EOVF` clear stores the padded message and its length, and leaves what R156 lists; a second run
gives the same message. -/
def Obligations.PtxtPadsInput : Prop :=
  encode .ptxt = 0x04000000#32 ∧
  ∀ s : State, flagSet s.status .eovf = false → s.len ≤ s.cfg.ibufBytes →
    ∃ t, exec .ptxt s = .next t ∧ messageWords t = padText (inputBytes s) ∧
      t.nwords = (padText (inputBytes s)).length ∧ t.rsp = some s.status ∧ t.status = s.status ∧ t.h = s.h ∧
      t.len = s.len ∧ (∀ k, readIbuf t k = readIbuf s k) ∧ (∀ j, t.nwords ≤ j → readMbuf t j = readMbuf s j) ∧
      t.phase = s.phase ∧ SameOutside s t ∧
      ∃ u, exec .ptxt t = .next u ∧ messageWords u = messageWords t ∧ u.nwords = t.nwords

/-- R157: `PTXT` with `EOVF` set drops the message and leaves `MBUF` and every flag; a following `CMPR` compresses nothing. -/
def Obligations.PtxtAfterOverflow : Prop :=
  ∀ s : State, flagSet s.status .eovf = true →
    ∃ t, exec .ptxt s = .next t ∧ t.nwords = 0 ∧ t.rsp = some s.status ∧ t.status = s.status ∧ t.h = s.h ∧
      t.len = s.len ∧ SameMemory s t ∧ t.phase = s.phase ∧ SameOutside s t ∧
      ∃ u, exec .cmpr t = .next u ∧ u.h = t.h

/-- R180: `PHEX` with `EOVF` clear and every character a digit stores the padded message of the digits' values. -/
def Obligations.PhexPadsInput : Prop :=
  encode .phex = 0x05000000#32 ∧
  ∀ s : State, flagSet s.status .eovf = false → s.len ≤ s.cfg.ibufBytes →
    (∀ k, k < s.len → (hexval (readIbuf s k)).isSome = true) →
    ∃ t d, exec .phex s = .next t ∧ d.length = s.len ∧ (∀ k, k < s.len → d[k]? = hexval (readIbuf s k)) ∧
      messageWords t = padHex d ∧ t.nwords = (padHex d).length ∧ t.rsp = some s.status ∧ t.status = s.status ∧
      t.h = s.h ∧ t.len = s.len ∧ (∀ k, readIbuf t k = readIbuf s k) ∧
      (∀ j, t.nwords ≤ j → readMbuf t j = readMbuf s j) ∧
      t.phase = s.phase ∧ SameOutside s t

/-- R181: `PHEX` with `EOVF` set does not examine the input. -/
def Obligations.PhexAfterOverflow : Prop :=
  ∀ s : State, flagSet s.status .eovf = true →
    ∃ t, exec .phex s = .next t ∧ t.nwords = 0 ∧ t.rsp = some s.status ∧ t.status = s.status ∧ t.h = s.h ∧
      t.len = s.len ∧ SameMemory s t ∧ t.phase = s.phase ∧ SameOutside s t

/-- R182: `PHEX` with `EOVF` clear and an invalid character anywhere raises `EHEX` and produces no message. -/
def Obligations.PhexInvalidDigit : Prop :=
  ∀ (s : State) (k : Nat), flagSet s.status .eovf = false → s.len ≤ s.cfg.ibufBytes → k < s.len →
    hexval (readIbuf s k) = none →
    ∃ t, exec .phex s = .next t ∧ t.status = s.status ||| 0x1#32 ∧ t.nwords = 0 ∧ t.rsp = some t.status ∧
      t.h = s.h ∧ t.len = s.len ∧ SameMemory s t ∧
      t.phase = s.phase ∧ SameOutside s t

/-! ## The compression engine's commands (44_compression.md) -/

/-- R215, with "`INIT` is idempotent". -/
def Obligations.InitLoadsIv : Prop :=
  encode .init = 0x03000000#32 ∧
  ∀ s : State, ∃ t, exec .init s = .next t ∧ (∀ i, i < 8 → wordAt t.h i = wordAt iv i) ∧ t.rsp = some s.status ∧
    t.len = s.len ∧ t.nwords = s.nwords ∧ t.status = s.status ∧ SameMemory s t ∧ t.phase = s.phase ∧ SameOutside s t ∧
    ∃ u, exec .init t = .next u ∧ u.h = t.h

/-- R216: `CMPR` folds the whole message into the current `H`, whatever the error flags are. -/
def Obligations.CmprFoldsMessage : Prop :=
  encode .cmpr = 0x06000000#32 ∧
  ∀ s : State, s.nwords % 16 = 0 → s.nwords ≤ mbufWords s.cfg →
    ∃ t, exec .cmpr s = .next t ∧
      t.h = compressAll s.h ((List.range s.nwords).map fun j => readMbuf s j) ∧ t.rsp = some s.status ∧
      t.len = s.len ∧ t.nwords = s.nwords ∧ t.status = s.status ∧ SameMemory s t ∧
      t.phase = s.phase ∧ SameOutside s t

/-- R217 (a) and (b): with no message `H` is unchanged; a second `CMPR` starts from the first one's result. -/
def Obligations.CmprChains : Prop :=
  ∀ s t : State, exec .cmpr s = .next t →
    (s.nwords = 0 → t.h = s.h) ∧
    ∃ u, exec .cmpr t = .next u ∧ u.h = compressAll (compressAll s.h (messageWords s)) (messageWords s)

/-! ## The entry points (45_host_commands.md) -/

/-- R248: `HTXT` in both cases, and that a second `HTXT` gives the same `H`. -/
def Obligations.HtxtDigestsInput : Prop :=
  encode .htxt = 0x07000000#32 ∧
  ∀ s : State, s.len ≤ s.cfg.ibufBytes →
    ∃ t, exec .htxt s = .next t ∧
      (if flagSet s.status .eovf = true then t.h = iv ∧ t.nwords = 0 ∧ ∀ j, readMbuf t j = readMbuf s j
       else
        t.h = compressAll iv (padText (inputBytes s)) ∧ messageWords t = padText (inputBytes s) ∧
        t.nwords = (padText (inputBytes s)).length ∧ ∀ j, t.nwords ≤ j → readMbuf t j = readMbuf s j) ∧
      t.rsp = some s.status ∧ t.status = s.status ∧ t.len = s.len ∧ (∀ k, readIbuf t k = readIbuf s k) ∧
      t.phase = s.phase ∧ SameOutside s t ∧ ∃ u, exec .htxt t = .next u ∧ u.h = t.h

/-- R249: `HHEX` in its three cases. -/
def Obligations.HhexDigestsInput : Prop :=
  encode .hhex = 0x08000000#32 ∧
  ∀ s : State, s.len ≤ s.cfg.ibufBytes →
    ∃ t, exec .hhex s = .next t ∧
      (if flagSet s.status .eovf = true then
        t.h = iv ∧ t.nwords = 0 ∧ t.status = s.status ∧ ∀ j, readMbuf t j = readMbuf s j
       else if ∃ k, k < s.len ∧ hexval (readIbuf s k) = none then
        t.h = iv ∧ t.nwords = 0 ∧ t.status = s.status ||| 0x1#32 ∧ ∀ j, readMbuf t j = readMbuf s j
       else
        ∃ d, d.length = s.len ∧ (∀ k, k < s.len → d[k]? = hexval (readIbuf s k)) ∧
          t.h = compressAll iv (padHex d) ∧ messageWords t = padHex d ∧ t.nwords = (padHex d).length ∧
          t.status = s.status ∧ ∀ j, t.nwords ≤ j → readMbuf t j = readMbuf s j) ∧
      t.rsp = some t.status ∧ t.len = s.len ∧ (∀ k, readIbuf t k = readIbuf s k) ∧
      t.phase = s.phase ∧ SameOutside s t

/-- R248, R249: an entry point has exactly the effects of `INIT`, its preprocessor and `CMPR` in turn, with the one
response of the end. -/
def Obligations.EntryPointsAreCompositions : Prop :=
  ∀ s a b c : State, exec .init s = .next a →
    ((exec .ptxt a = .next b → exec .cmpr b = .next c →
      ∃ t, exec .htxt s = .next t ∧ ObsEq t c ∧ t.rsp = c.rsp ∧ SameMemory c t) ∧
     (exec .phex a = .next b → exec .cmpr b = .next c →
      ∃ t, exec .hhex s = .next t ∧ ObsEq t c ∧ t.rsp = c.rsp ∧ SameMemory c t))

/-- R321, R248: an entry point's digest depends on the input, its length, `EOVF` and the parameter alone, not on any
earlier digest, message or fault record. -/
def Obligations.EntryPointsIgnoreHistory : Prop :=
  ∀ s s' t t' : State, inputBytes s = inputBytes s' →
    flagSet s.status .eovf = flagSet s'.status .eovf → s.cfg = s'.cfg →
    ((exec .htxt s = .next t → exec .htxt s' = .next t' → t.h = t'.h ∧ messageWords t = messageWords t') ∧
     (exec .hhex s = .next t → exec .hhex s' = .next t' → t.h = t'.h ∧ messageWords t = messageWords t'))

/-- R242: `digest_from_text` as the host runs it, from any idle state whatever its history: every response before the
digest is zero, and the eight `RDH` responses are the digest words of the padded text, `H[0]` first. -/
def Obligations.DigestFromText : Prop :=
  ∀ (s : State) (bs : List Byte) (rest : List HostEvent), s.phase = .idle → bs.length ≤ s.cfg.ibufBytes →
    s.inputs = presented (hashText bs) ++ rest →
    responses (bs.length + 10) s =
      some (List.replicate (bs.length + 2) 0 ++ wordList (compressAll iv (padText bs)))

/-- R242: `digest_from_hex` as the host runs it on a valid digit string. -/
def Obligations.DigestFromHex : Prop :=
  ∀ (s : State) (cs : List Byte) (d : List Nibble) (rest : List HostEvent), s.phase = .idle →
    cs.length ≤ s.cfg.ibufBytes → hexDigits cs = some d → s.inputs = presented (hashHex cs) ++ rest →
    responses (cs.length + 10) s =
      some (List.replicate (cs.length + 2) 0 ++ wordList (compressAll iv (padHex d)))

/-! ## Read-out (45_host_commands.md) -/

/-- R250. -/
def Obligations.RdhReturnsHashWord : Prop :=
  ∀ (s : State) (i : BitVec 3), (encode (.rdh i)).toNat = 0x09000000 + i.toNat ∧
    ∃ t, exec (.rdh i) s = .next t ∧
      t.rsp = [s.h.a, s.h.b, s.h.c, s.h.d, s.h.e, s.h.f, s.h.g, s.h.h][i.toNat]? ∧
      SameRegisters s t ∧ SameMemory s t ∧ t.phase = s.phase ∧ SameOutside s t

/-- R252: both cases of `RDW`, in every state whose message fits its buffer. -/
def Obligations.RdwReturnsMessageWord : Prop :=
  ∀ (s : State) (j : BitVec 24), s.nwords ≤ mbufWords s.cfg →
    (encode (.rdw j)).toNat = 0x0A000000 + j.toNat ∧
    ∃ t, exec (.rdw j) s = .next t ∧
      (if j.toNat < s.nwords then t.rsp = some (readMbuf s j.toNat) ∧ t.status = s.status
       else t.status = s.status ||| 0x4#32 ∧ t.rsp = some t.status) ∧
      t.h = s.h ∧ t.len = s.len ∧ t.nwords = s.nwords ∧ SameMemory s t ∧ t.phase = s.phase ∧ SameOutside s t

/-- R254: the three selections of `RDS`; the word of the fourth is illegal. -/
def Obligations.RdsReturnsRegister : Prop :=
  (∀ (s : State) (sel : BitVec 2), wellFormed (.rds sel) = true →
    (encode (.rds sel)).toNat = 0x0B000000 + sel.toNat ∧
    ∃ t, exec (.rds sel) s = .next t ∧
      (if sel = 0#2 then t.rsp = some s.status else if sel = 1#2 then t.rsp = some (BitVec.ofNat 32 s.len)
       else t.rsp = some (BitVec.ofNat 32 s.nwords)) ∧
      SameRegisters s t ∧ SameMemory s t ∧ t.phase = s.phase ∧ SameOutside s t) ∧
  ∃ why, decode 0x0B000003#32 = .illegal why

/-- The term `rds 3`, which is not well-formed and which no word decodes to, acts as the illegal word it would be: the
model's choice (log entry 15), in the manner of R94; that hidden registers stay is log entry 7. -/
def Obligations.RdsThreeActsAsIllegalWord : Prop :=
  wellFormed (.rds 3#2) = false ∧ (∀ w : Word, decode w ≠ .legal (.rds 3#2)) ∧
  ∀ s : State, ∃ t, exec (.rds 3#2) s = .next t ∧ t.status = s.status ||| 0x4#32 ∧ t.rsp = some t.status ∧
    t.h = s.h ∧ t.len = s.len ∧ t.nwords = s.nwords ∧ SameMemory s t ∧ SameHidden s t ∧ SameOutside s t

/-- R241, R97: every command and every illegal word gives exactly one response, with the content of the table. -/
def Obligations.ResponseTable : Prop :=
  ∀ (w : Word) (s t : State), runWord w s = .next t →
    match decode w with
    | .legal (.rdh i) => t.rsp = some (wordAt s.h i.toNat)
    | .legal (.rdw j) => t.rsp = if j.toNat < s.nwords then some (readMbuf s j.toNat) else some (s.status ||| 0x4#32)
    | .legal (.rds sel) =>
        t.rsp = if sel = 0#2 then some s.status else if sel = 1#2 then some (BitVec.ofNat 32 s.len)
          else some (BitVec.ofNat 32 s.nwords)
    | .legal _ => t.rsp = some t.status
    | .illegal _ => t.status = s.status ||| 0x4#32 ∧ t.rsp = some t.status

/-! ## Who writes what (10_state.md, 60_exceptions.md) -/

/-- R22, R25, R26, R33, R34: each register and memory is written by the commands its rule names and by no other, and
an illegal word writes none of them. The clauses on hidden registers are the model's choice (log entry 7): R30 and R31
leave them unspecified after a command. -/
def Obligations.WritersOfState : Prop :=
  (∀ (i : Instr) (s t : State), exec i s = .next t →
    (writesHash i = false → t.h = s.h) ∧
    (i ≠ .clr → (∀ b, i ≠ .push b) → t.len = s.len) ∧
    (i ≠ .clr → runsPreprocessor i = false → t.nwords = s.nwords) ∧
    ((∀ b, i ≠ .push b) → ∀ k, readIbuf t k = readIbuf s k) ∧
    (runsPreprocessor i = false → ∀ j, readMbuf t j = readMbuf s j) ∧
    (usesHidden i = false → SameHidden s t) ∧ SameOutside s t) ∧
  ∀ (w : Word) (why : Illegal) (s t : State), decode w = .illegal why → runWord w s = .next t →
    t.h = s.h ∧ t.len = s.len ∧ t.nwords = s.nwords ∧ SameMemory s t ∧ SameHidden s t ∧ SameOutside s t

/-- The model's choice (log entry 7; R30, R31 and R35 leave hidden registers unspecified after a command): a command
that uses some hidden registers leaves the ones it does not use, and a preprocessor that does not run leaves its
scratch. `WritersOfState` says the same of the commands and words that use none. -/
def Obligations.UnusedHiddenRegistersStay : Prop :=
  ∀ (i : Instr) (s t : State), exec i s = .next t →
    (i = .ptxt ∨ i = .phex → t.work = s.work ∧ t.sched = s.sched ∧ t.blk = s.blk ∧ t.t = s.t) ∧
    (i = .cmpr → t.scratch = s.scratch) ∧
    (runsPreprocessor i = true → flagSet s.status .eovf = true → t.scratch = s.scratch) ∧ t.phase = s.phase

/-- R286 (3), R281: a command other than `CLR` leaves `STATUS` or sets one flag, and each flag only by the commands
that raise it. -/
def Obligations.AtMostOneError : Prop :=
  ∀ (i : Instr) (s t : State), wellFormed i = true → i ≠ .clr → exec i s = .next t →
    t.status = s.status ∨
    (t.status = s.status ||| 0x1#32 ∧ (i = .phex ∨ i = .hhex) ∧ flagSet s.status .eovf = false) ∨
    (t.status = s.status ||| 0x2#32 ∧ ∃ b, i = .push b) ∨
    (t.status = s.status ||| 0x4#32 ∧ ∃ j : BitVec 24, i = .rdw j ∧ s.nwords ≤ j.toNat)

/-- R63: a read gives the latest write to that element and a write changes no other element, in both memories. -/
def Obligations.ReadsGiveLatestWrite : Prop :=
  (∀ (s : State) (k : Nat) (b : Byte) (j : Nat),
    readIbuf (writeIbuf s k b) j = if j = k then b else readIbuf s j) ∧
  ∀ (s : State) (k : Nat) (v : Word) (j : Nat),
    readMbuf { s with mbuf := Memory.write s.mbuf k v } j = if j = k then v else readMbuf s j

/-! ## Primitives (40_primitives.md) -/

/-- R121: two operands and any number of them, in any order and grouping. -/
def Obligations.AddWrapsModuloWord : Prop :=
  (∀ x y : Word, (add32 x y).toNat = (x.toNat + y.toNat) % 2 ^ 32) ∧
  (∀ x y : Word, add32 x y = add32 y x) ∧ (∀ x y z : Word, add32 (add32 x y) z = add32 x (add32 y z)) ∧
  ∀ (x : Word) (xs : List Word), (xs.foldl add32 x).toNat = (x.toNat + (xs.map BitVec.toNat).sum) % 2 ^ 32

/-- R122, R123: a right shift divides by the power of two; a rotation moves bit `(i + n) mod 32` to bit `i`, and is the
source's expression for amounts 1 to 31. -/
def Obligations.ShiftsAndRotations : Prop :=
  (∀ (x : Word) (n : Nat), (shr x n).toNat = x.toNat / 2 ^ n) ∧
  (∀ (x : Word) (n i : Nat), i < 32 → (rotr x n).getLsbD i = x.getLsbD ((i + n) % 32)) ∧
  ∀ (x : Word) (n : Nat), 1 ≤ n → n < 32 → rotr x n = (x >>> n) ||| (x <<< (32 - n))

/-- R124 to R127, bit by bit. -/
def Obligations.SigmasBitByBit : Prop :=
  ∀ (x : Word) (i : Nat), i < 32 →
    (lsig0 x).getLsbD i = ((x.getLsbD ((i + 7) % 32) ^^ x.getLsbD ((i + 18) % 32)) ^^ x.getLsbD (i + 3)) ∧
    (lsig1 x).getLsbD i = ((x.getLsbD ((i + 17) % 32) ^^ x.getLsbD ((i + 19) % 32)) ^^ x.getLsbD (i + 10)) ∧
    (usig0 x).getLsbD i =
      ((x.getLsbD ((i + 2) % 32) ^^ x.getLsbD ((i + 13) % 32)) ^^ x.getLsbD ((i + 22) % 32)) ∧
    (usig1 x).getLsbD i =
      ((x.getLsbD ((i + 6) % 32) ^^ x.getLsbD ((i + 11) % 32)) ^^ x.getLsbD ((i + 25) % 32))

/-- R128, R129, bit by bit: `choice` selects, `majority` is one where at least two operands are. -/
def Obligations.ChoiceAndMajorityBitByBit : Prop :=
  ∀ (x y z : Word) (i : Nat), i < 32 →
    (choice x y z).getLsbD i = (if x.getLsbD i = true then y.getLsbD i else z.getLsbD i) ∧
    ((majority x y z).getLsbD i = true ↔
      2 ≤ (x.getLsbD i).toNat + (y.getLsbD i).toNat + (z.getLsbD i).toNat)

/-- R130, R131 (values the spec marks as general knowledge; log entry 12): each table word is the first 32 bits of the
fractional part of the square or cube root of its prime. -/
def Obligations.TablesAreRootsOfPrimes : Prop :=
  (∀ i, i < 8 → ∃ w, w < 20 ∧ (w * 2 ^ 32 + (wordAt iv i).toNat) ^ 2 ≤ (primesBelow 312).getD i 0 * 2 ^ 64 ∧
    (primesBelow 312).getD i 0 * 2 ^ 64 < (w * 2 ^ 32 + (wordAt iv i).toNat + 1) ^ 2) ∧
  ∀ t, t < 64 → ∃ w, w < 20 ∧ (w * 2 ^ 32 + (kAt t).toNat) ^ 3 ≤ (primesBelow 312).getD t 0 * 2 ^ 96 ∧
    (primesBelow 312).getD t 0 * 2 ^ 96 < (w * 2 ^ 32 + (kAt t).toNat + 1) ^ 3

/-! ## Padding (41_text_preprocessor.md, 42_hex_preprocessor.md) -/

/-- R152, R153, R154: the padded message holds the bytes, the delimiter, zeros and the 64-bit length, in the smallest
multiple of 16 words that can. -/
def Obligations.TextPaddingShape : Prop :=
  ∀ (s : List Byte) (m : List Word), s.length < 2 ^ 61 → m = padText s →
    0 < m.length ∧ m.length % 16 = 0 ∧ m.length = 16 * ceilDiv (s.length + 9) 64 ∧
    (∀ k, k < s.length → messageByte m k = s.getD k 0) ∧ messageByte m s.length = 0x80#8 ∧
    (∀ k, s.length < k → k < 4 * (m.length - 2) → messageByte m k = 0#8) ∧
    (m.getD (m.length - 2) 0).toNat * 2 ^ 32 + (m.getD (m.length - 1) 0).toNat = 8 * s.length ∧
    ∀ n, n % 16 = 0 → s.length + 1 ≤ 4 * (n - 2) → m.length ≤ n

/-- R179: padding digits gives, word for word, the text padding of the bytes the even digit sequence stands for.
For `2^62` digits or more both keep the length modulo `2^64`, the model's choice (log entry 19). -/
def Obligations.HexPaddingIsTextPadding : Prop :=
  ∀ d : List Nibble, padHex d = padText (digitBytes (evenDigits d)) ∧
    (padHex d).length = 16 * ceilDiv ((d.length + d.length % 2) / 2 + 9) 64

/-- R170 (ASCII codes the spec marks as general knowledge; log entry 12): the digit map, with exactly 22 valid codes. -/
def Obligations.HexDigitMap : Prop :=
  (∀ c : Byte, hexval c =
    if c.toNat ∈ List.range' 0x30 10 then some (BitVec.ofNat 4 (c.toNat - 0x30))
    else if c.toNat ∈ List.range' 0x61 6 then some (BitVec.ofNat 4 (c.toNat - 0x61 + 10))
    else if c.toNat ∈ List.range' 0x41 6 then some (BitVec.ofNat 4 (c.toNat - 0x41 + 10))
    else none) ∧
  ((List.range 256).filter fun n => (hexval (BitVec.ofNat 8 n)).isSome).length = 22

/-! ## Schedule and compression (43_schedule_expander.md, 44_compression.md) -/

/-- R200, R201, R202: sixty-four words, the first sixteen the block's, the others by the recurrence. -/
def Obligations.ScheduleRecurrence : Prop :=
  ∀ b : List Word, b.length = 16 →
    (expand b).length = 64 ∧ (∀ i, i < 16 → (expand b).getD i 0 = b.getD i 0) ∧
    ∀ i, 16 ≤ i → i < 64 →
      (expand b).getD i 0 =
        lsig1 ((expand b).getD (i - 2) 0) + (expand b).getD (i - 7) 0 + lsig0 ((expand b).getD (i - 15) 0) +
          (expand b).getD (i - 16) 0

/-- R211. -/
def Obligations.RoundFormula : Prop :=
  ∀ (a b c d e f g h k x t1 t2 : Word),
    t1 = h + usig1 e + choice e f g + k + x → t2 = usig0 a + majority a b c →
    mixRound ⟨a, b, c, d, e, f, g, h⟩ k x = ⟨t1 + t2, a, b, c, d + t1, e, f, g⟩

/-- R212: sixty-four rounds from the hash state, round `t` with `K[t]` and `w[t]`, then each word added to the hash
state's. -/
def Obligations.CompressBlockSteps : Prop :=
  ∀ (hin : Words8) (b : List Word), ∃ v : Nat → Words8,
    v 0 = hin ∧ (∀ t, t < 64 → v (t + 1) = mixRound (v t) (kAt t) ((expand b).getD t 0)) ∧
    ∀ i, i < 8 → wordAt (compressBlock hin b) i = wordAt hin i + wordAt (v 64) i

/-- R213, R214, R23: the blocks are folded strictly in sequence, each from the result of the one before, with no reload
of the initial vector between them. -/
def Obligations.CompressAllChains : Prop :=
  (∀ h : Words8, compressAll h [] = h) ∧
  (∀ (h : Words8) (b : List Word), b.length = 16 → compressAll h b = compressBlock h b) ∧
  ∀ (h : Words8) (m m' : List Word), m.length % 16 = 0 →
    compressAll h (m ++ m') = compressAll (compressAll h m) m'

/-- 95_test_vectors.md S2, S3: the source's two known answers. -/
def Obligations.KnownAnswers : Prop :=
  wordList (compressAll iv (padText [])) =
    [0xe3b0c442#32, 0x98fc1c14#32, 0x9afbf4c8#32, 0x996fb924#32, 0x27ae41e4#32, 0x649b934c#32, 0xa495991b#32,
     0x7852b855#32] ∧
  wordList (compressAll iv (padText [0x61#8, 0x62#8, 0x63#8])) =
    [0xba7816bf#32, 0x8f01cfea#32, 0x414140de#32, 0x5dae2223#32, 0xb00361a3#32, 0x96177a9c#32, 0xb410ff61#32,
     0xf20015ad#32]
end

