-- ==== Sys2Proof/Laws/State.lean ====
section
/-! SUPPORT. What each update of State does to each field, so that no later proof unfolds a record update. -/
namespace Sys2Proof.Machine

/-! `raise` -/

@[simp] theorem raise_h (e : ErrFlag) (s : State) : (raise e s).h = s.h := rfl
@[simp] theorem raise_len (e : ErrFlag) (s : State) : (raise e s).len = s.len := rfl
@[simp] theorem raise_nwords (e : ErrFlag) (s : State) : (raise e s).nwords = s.nwords := rfl
@[simp] theorem raise_status (e : ErrFlag) (s : State) : (raise e s).status = setFlag s.status e := rfl
@[simp] theorem raise_ibuf (e : ErrFlag) (s : State) : (raise e s).ibuf = s.ibuf := rfl
@[simp] theorem raise_mbuf (e : ErrFlag) (s : State) : (raise e s).mbuf = s.mbuf := rfl
@[simp] theorem raise_work (e : ErrFlag) (s : State) : (raise e s).work = s.work := rfl
@[simp] theorem raise_sched (e : ErrFlag) (s : State) : (raise e s).sched = s.sched := rfl
@[simp] theorem raise_scratch (e : ErrFlag) (s : State) : (raise e s).scratch = s.scratch := rfl
@[simp] theorem raise_phase (e : ErrFlag) (s : State) : (raise e s).phase = s.phase := rfl
@[simp] theorem raise_blk (e : ErrFlag) (s : State) : (raise e s).blk = s.blk := rfl
@[simp] theorem raise_t (e : ErrFlag) (s : State) : (raise e s).t = s.t := rfl
@[simp] theorem raise_cfg (e : ErrFlag) (s : State) : (raise e s).cfg = s.cfg := rfl
@[simp] theorem raise_inputs (e : ErrFlag) (s : State) : (raise e s).inputs = s.inputs := rfl
@[simp] theorem raise_rsp (e : ErrFlag) (s : State) : (raise e s).rsp = s.rsp := rfl
@[simp] theorem raise_epoch (e : ErrFlag) (s : State) : (raise e s).epoch = s.epoch := rfl
@[simp] theorem raise_draws (e : ErrFlag) (s : State) : (raise e s).draws = s.draws := rfl

/-! `clearErrors` -/

@[simp] theorem clearErrors_h (s : State) : (clearErrors s).h = s.h := rfl
@[simp] theorem clearErrors_len (s : State) : (clearErrors s).len = s.len := rfl
@[simp] theorem clearErrors_nwords (s : State) : (clearErrors s).nwords = s.nwords := rfl
@[simp] theorem clearErrors_status (s : State) : (clearErrors s).status = clearFlags := rfl
@[simp] theorem clearErrors_ibuf (s : State) : (clearErrors s).ibuf = s.ibuf := rfl
@[simp] theorem clearErrors_mbuf (s : State) : (clearErrors s).mbuf = s.mbuf := rfl
@[simp] theorem clearErrors_work (s : State) : (clearErrors s).work = s.work := rfl
@[simp] theorem clearErrors_sched (s : State) : (clearErrors s).sched = s.sched := rfl
@[simp] theorem clearErrors_scratch (s : State) : (clearErrors s).scratch = s.scratch := rfl
@[simp] theorem clearErrors_phase (s : State) : (clearErrors s).phase = s.phase := rfl
@[simp] theorem clearErrors_blk (s : State) : (clearErrors s).blk = s.blk := rfl
@[simp] theorem clearErrors_t (s : State) : (clearErrors s).t = s.t := rfl
@[simp] theorem clearErrors_cfg (s : State) : (clearErrors s).cfg = s.cfg := rfl
@[simp] theorem clearErrors_inputs (s : State) : (clearErrors s).inputs = s.inputs := rfl
@[simp] theorem clearErrors_rsp (s : State) : (clearErrors s).rsp = s.rsp := rfl
@[simp] theorem clearErrors_epoch (s : State) : (clearErrors s).epoch = s.epoch := rfl
@[simp] theorem clearErrors_draws (s : State) : (clearErrors s).draws = s.draws := rfl

/-! `respond` -/

@[simp] theorem respond_h (s : State) (v : Word) : (respond s v).h = s.h := rfl
@[simp] theorem respond_len (s : State) (v : Word) : (respond s v).len = s.len := rfl
@[simp] theorem respond_nwords (s : State) (v : Word) : (respond s v).nwords = s.nwords := rfl
@[simp] theorem respond_status (s : State) (v : Word) : (respond s v).status = s.status := rfl
@[simp] theorem respond_ibuf (s : State) (v : Word) : (respond s v).ibuf = s.ibuf := rfl
@[simp] theorem respond_mbuf (s : State) (v : Word) : (respond s v).mbuf = s.mbuf := rfl
@[simp] theorem respond_work (s : State) (v : Word) : (respond s v).work = s.work := rfl
@[simp] theorem respond_sched (s : State) (v : Word) : (respond s v).sched = s.sched := rfl
@[simp] theorem respond_scratch (s : State) (v : Word) : (respond s v).scratch = s.scratch := rfl
@[simp] theorem respond_phase (s : State) (v : Word) : (respond s v).phase = s.phase := rfl
@[simp] theorem respond_blk (s : State) (v : Word) : (respond s v).blk = s.blk := rfl
@[simp] theorem respond_t (s : State) (v : Word) : (respond s v).t = s.t := rfl
@[simp] theorem respond_cfg (s : State) (v : Word) : (respond s v).cfg = s.cfg := rfl
@[simp] theorem respond_inputs (s : State) (v : Word) : (respond s v).inputs = s.inputs := rfl
@[simp] theorem respond_rsp (s : State) (v : Word) : (respond s v).rsp = some v := rfl
@[simp] theorem respond_epoch (s : State) (v : Word) : (respond s v).epoch = s.epoch := rfl
@[simp] theorem respond_draws (s : State) (v : Word) : (respond s v).draws = s.draws := rfl

/-! `respondStatus` -/

@[simp] theorem respondStatus_h (s : State) : (respondStatus s).h = s.h := rfl
@[simp] theorem respondStatus_len (s : State) : (respondStatus s).len = s.len := rfl
@[simp] theorem respondStatus_nwords (s : State) : (respondStatus s).nwords = s.nwords := rfl
@[simp] theorem respondStatus_status (s : State) : (respondStatus s).status = s.status := rfl
@[simp] theorem respondStatus_ibuf (s : State) : (respondStatus s).ibuf = s.ibuf := rfl
@[simp] theorem respondStatus_mbuf (s : State) : (respondStatus s).mbuf = s.mbuf := rfl
@[simp] theorem respondStatus_work (s : State) : (respondStatus s).work = s.work := rfl
@[simp] theorem respondStatus_sched (s : State) : (respondStatus s).sched = s.sched := rfl
@[simp] theorem respondStatus_scratch (s : State) : (respondStatus s).scratch = s.scratch := rfl
@[simp] theorem respondStatus_phase (s : State) : (respondStatus s).phase = s.phase := rfl
@[simp] theorem respondStatus_blk (s : State) : (respondStatus s).blk = s.blk := rfl
@[simp] theorem respondStatus_t (s : State) : (respondStatus s).t = s.t := rfl
@[simp] theorem respondStatus_cfg (s : State) : (respondStatus s).cfg = s.cfg := rfl
@[simp] theorem respondStatus_inputs (s : State) : (respondStatus s).inputs = s.inputs := rfl
@[simp] theorem respondStatus_rsp (s : State) : (respondStatus s).rsp = some s.status := rfl
@[simp] theorem respondStatus_epoch (s : State) : (respondStatus s).epoch = s.epoch := rfl
@[simp] theorem respondStatus_draws (s : State) : (respondStatus s).draws = s.draws := rfl

/-! `loadIv` -/

@[simp] theorem loadIv_h (s : State) : (loadIv s).h = iv := rfl
@[simp] theorem loadIv_len (s : State) : (loadIv s).len = s.len := rfl
@[simp] theorem loadIv_nwords (s : State) : (loadIv s).nwords = s.nwords := rfl
@[simp] theorem loadIv_status (s : State) : (loadIv s).status = s.status := rfl
@[simp] theorem loadIv_ibuf (s : State) : (loadIv s).ibuf = s.ibuf := rfl
@[simp] theorem loadIv_mbuf (s : State) : (loadIv s).mbuf = s.mbuf := rfl
@[simp] theorem loadIv_work (s : State) : (loadIv s).work = s.work := rfl
@[simp] theorem loadIv_sched (s : State) : (loadIv s).sched = s.sched := rfl
@[simp] theorem loadIv_scratch (s : State) : (loadIv s).scratch = s.scratch := rfl
@[simp] theorem loadIv_phase (s : State) : (loadIv s).phase = s.phase := rfl
@[simp] theorem loadIv_blk (s : State) : (loadIv s).blk = s.blk := rfl
@[simp] theorem loadIv_t (s : State) : (loadIv s).t = s.t := rfl
@[simp] theorem loadIv_cfg (s : State) : (loadIv s).cfg = s.cfg := rfl
@[simp] theorem loadIv_inputs (s : State) : (loadIv s).inputs = s.inputs := rfl
@[simp] theorem loadIv_rsp (s : State) : (loadIv s).rsp = s.rsp := rfl
@[simp] theorem loadIv_epoch (s : State) : (loadIv s).epoch = s.epoch := rfl
@[simp] theorem loadIv_draws (s : State) : (loadIv s).draws = s.draws := rfl

/-! `dropMessage` -/

@[simp] theorem dropMessage_h (s : State) : (dropMessage s).h = s.h := rfl
@[simp] theorem dropMessage_len (s : State) : (dropMessage s).len = s.len := rfl
@[simp] theorem dropMessage_nwords (s : State) : (dropMessage s).nwords = 0 := rfl
@[simp] theorem dropMessage_status (s : State) : (dropMessage s).status = s.status := rfl
@[simp] theorem dropMessage_ibuf (s : State) : (dropMessage s).ibuf = s.ibuf := rfl
@[simp] theorem dropMessage_mbuf (s : State) : (dropMessage s).mbuf = s.mbuf := rfl
@[simp] theorem dropMessage_work (s : State) : (dropMessage s).work = s.work := rfl
@[simp] theorem dropMessage_sched (s : State) : (dropMessage s).sched = s.sched := rfl
@[simp] theorem dropMessage_scratch (s : State) : (dropMessage s).scratch = s.scratch := rfl
@[simp] theorem dropMessage_phase (s : State) : (dropMessage s).phase = s.phase := rfl
@[simp] theorem dropMessage_blk (s : State) : (dropMessage s).blk = s.blk := rfl
@[simp] theorem dropMessage_t (s : State) : (dropMessage s).t = s.t := rfl
@[simp] theorem dropMessage_cfg (s : State) : (dropMessage s).cfg = s.cfg := rfl
@[simp] theorem dropMessage_inputs (s : State) : (dropMessage s).inputs = s.inputs := rfl
@[simp] theorem dropMessage_rsp (s : State) : (dropMessage s).rsp = s.rsp := rfl
@[simp] theorem dropMessage_epoch (s : State) : (dropMessage s).epoch = s.epoch := rfl
@[simp] theorem dropMessage_draws (s : State) : (dropMessage s).draws = s.draws := rfl

/-! `writeIbuf` -/

@[simp] theorem writeIbuf_h (s : State) (k : Nat) (b : Byte) : (writeIbuf s k b).h = s.h := rfl
@[simp] theorem writeIbuf_len (s : State) (k : Nat) (b : Byte) : (writeIbuf s k b).len = s.len := rfl
@[simp] theorem writeIbuf_nwords (s : State) (k : Nat) (b : Byte) : (writeIbuf s k b).nwords = s.nwords := rfl
@[simp] theorem writeIbuf_status (s : State) (k : Nat) (b : Byte) : (writeIbuf s k b).status = s.status := rfl
@[simp] theorem writeIbuf_ibuf (s : State) (k : Nat) (b : Byte) : (writeIbuf s k b).ibuf = Memory.write s.ibuf k b := rfl
@[simp] theorem writeIbuf_mbuf (s : State) (k : Nat) (b : Byte) : (writeIbuf s k b).mbuf = s.mbuf := rfl
@[simp] theorem writeIbuf_work (s : State) (k : Nat) (b : Byte) : (writeIbuf s k b).work = s.work := rfl
@[simp] theorem writeIbuf_sched (s : State) (k : Nat) (b : Byte) : (writeIbuf s k b).sched = s.sched := rfl
@[simp] theorem writeIbuf_scratch (s : State) (k : Nat) (b : Byte) : (writeIbuf s k b).scratch = s.scratch := rfl
@[simp] theorem writeIbuf_phase (s : State) (k : Nat) (b : Byte) : (writeIbuf s k b).phase = s.phase := rfl
@[simp] theorem writeIbuf_blk (s : State) (k : Nat) (b : Byte) : (writeIbuf s k b).blk = s.blk := rfl
@[simp] theorem writeIbuf_t (s : State) (k : Nat) (b : Byte) : (writeIbuf s k b).t = s.t := rfl
@[simp] theorem writeIbuf_cfg (s : State) (k : Nat) (b : Byte) : (writeIbuf s k b).cfg = s.cfg := rfl
@[simp] theorem writeIbuf_inputs (s : State) (k : Nat) (b : Byte) : (writeIbuf s k b).inputs = s.inputs := rfl
@[simp] theorem writeIbuf_rsp (s : State) (k : Nat) (b : Byte) : (writeIbuf s k b).rsp = s.rsp := rfl
@[simp] theorem writeIbuf_epoch (s : State) (k : Nat) (b : Byte) : (writeIbuf s k b).epoch = s.epoch := rfl
@[simp] theorem writeIbuf_draws (s : State) (k : Nat) (b : Byte) : (writeIbuf s k b).draws = s.draws := rfl

/-! `storeMessage` -/

@[simp] theorem storeMessage_h (s : State) (m : List Word) : (storeMessage s m).h = s.h := rfl
@[simp] theorem storeMessage_len (s : State) (m : List Word) : (storeMessage s m).len = s.len := rfl
@[simp] theorem storeMessage_nwords (s : State) (m : List Word) : (storeMessage s m).nwords = m.length := rfl
@[simp] theorem storeMessage_status (s : State) (m : List Word) : (storeMessage s m).status = s.status := rfl
@[simp] theorem storeMessage_ibuf (s : State) (m : List Word) : (storeMessage s m).ibuf = s.ibuf := rfl
@[simp] theorem storeMessage_mbuf (s : State) (m : List Word) : (storeMessage s m).mbuf = Memory.writeFrom s.mbuf 0 m := rfl
@[simp] theorem storeMessage_work (s : State) (m : List Word) : (storeMessage s m).work = s.work := rfl
@[simp] theorem storeMessage_sched (s : State) (m : List Word) : (storeMessage s m).sched = s.sched := rfl
@[simp] theorem storeMessage_scratch (s : State) (m : List Word) : (storeMessage s m).scratch = s.scratch := rfl
@[simp] theorem storeMessage_phase (s : State) (m : List Word) : (storeMessage s m).phase = s.phase := rfl
@[simp] theorem storeMessage_blk (s : State) (m : List Word) : (storeMessage s m).blk = s.blk := rfl
@[simp] theorem storeMessage_t (s : State) (m : List Word) : (storeMessage s m).t = s.t := rfl
@[simp] theorem storeMessage_cfg (s : State) (m : List Word) : (storeMessage s m).cfg = s.cfg := rfl
@[simp] theorem storeMessage_inputs (s : State) (m : List Word) : (storeMessage s m).inputs = s.inputs := rfl
@[simp] theorem storeMessage_rsp (s : State) (m : List Word) : (storeMessage s m).rsp = s.rsp := rfl
@[simp] theorem storeMessage_epoch (s : State) (m : List Word) : (storeMessage s m).epoch = s.epoch := rfl
@[simp] theorem storeMessage_draws (s : State) (m : List Word) : (storeMessage s m).draws = s.draws := rfl

/-! `foldMessage` -/

@[simp] theorem foldMessage_h (s : State) : (foldMessage s).h = compressAll s.h (messageWords s) := rfl
@[simp] theorem foldMessage_len (s : State) : (foldMessage s).len = s.len := rfl
@[simp] theorem foldMessage_nwords (s : State) : (foldMessage s).nwords = s.nwords := rfl
@[simp] theorem foldMessage_status (s : State) : (foldMessage s).status = s.status := rfl
@[simp] theorem foldMessage_ibuf (s : State) : (foldMessage s).ibuf = s.ibuf := rfl
@[simp] theorem foldMessage_mbuf (s : State) : (foldMessage s).mbuf = s.mbuf := rfl
@[simp] theorem foldMessage_work (s : State) : (foldMessage s).work = s.work := rfl
@[simp] theorem foldMessage_sched (s : State) : (foldMessage s).sched = s.sched := rfl
@[simp] theorem foldMessage_scratch (s : State) : (foldMessage s).scratch = s.scratch := rfl
@[simp] theorem foldMessage_phase (s : State) : (foldMessage s).phase = s.phase := rfl
@[simp] theorem foldMessage_blk (s : State) : (foldMessage s).blk = s.blk := rfl
@[simp] theorem foldMessage_t (s : State) : (foldMessage s).t = s.t := rfl
@[simp] theorem foldMessage_cfg (s : State) : (foldMessage s).cfg = s.cfg := rfl
@[simp] theorem foldMessage_inputs (s : State) : (foldMessage s).inputs = s.inputs := rfl
@[simp] theorem foldMessage_rsp (s : State) : (foldMessage s).rsp = s.rsp := rfl
@[simp] theorem foldMessage_epoch (s : State) : (foldMessage s).epoch = s.epoch := rfl
@[simp] theorem foldMessage_draws (s : State) : (foldMessage s).draws = s.draws := rfl

/-! `drawScratch` -/

@[simp] theorem drawScratch_h (s : State) : (drawScratch s).h = s.h := rfl
@[simp] theorem drawScratch_len (s : State) : (drawScratch s).len = s.len := rfl
@[simp] theorem drawScratch_nwords (s : State) : (drawScratch s).nwords = s.nwords := rfl
@[simp] theorem drawScratch_status (s : State) : (drawScratch s).status = s.status := rfl
@[simp] theorem drawScratch_ibuf (s : State) : (drawScratch s).ibuf = s.ibuf := rfl
@[simp] theorem drawScratch_mbuf (s : State) : (drawScratch s).mbuf = s.mbuf := rfl
@[simp] theorem drawScratch_work (s : State) : (drawScratch s).work = s.work := rfl
@[simp] theorem drawScratch_sched (s : State) : (drawScratch s).sched = s.sched := rfl
@[simp] theorem drawScratch_scratch (s : State) : (drawScratch s).scratch = Config.freeScratch s.draws := rfl
@[simp] theorem drawScratch_phase (s : State) : (drawScratch s).phase = s.phase := rfl
@[simp] theorem drawScratch_blk (s : State) : (drawScratch s).blk = s.blk := rfl
@[simp] theorem drawScratch_t (s : State) : (drawScratch s).t = s.t := rfl
@[simp] theorem drawScratch_cfg (s : State) : (drawScratch s).cfg = s.cfg := rfl
@[simp] theorem drawScratch_inputs (s : State) : (drawScratch s).inputs = s.inputs := rfl
@[simp] theorem drawScratch_rsp (s : State) : (drawScratch s).rsp = s.rsp := rfl
@[simp] theorem drawScratch_epoch (s : State) : (drawScratch s).epoch = s.epoch := rfl
@[simp] theorem drawScratch_draws (s : State) : (drawScratch s).draws = s.draws + 1 := rfl

/-! `drawCompression` -/

@[simp] theorem drawCompression_h (s : State) : (drawCompression s).h = s.h := rfl
@[simp] theorem drawCompression_len (s : State) : (drawCompression s).len = s.len := rfl
@[simp] theorem drawCompression_nwords (s : State) : (drawCompression s).nwords = s.nwords := rfl
@[simp] theorem drawCompression_status (s : State) : (drawCompression s).status = s.status := rfl
@[simp] theorem drawCompression_ibuf (s : State) : (drawCompression s).ibuf = s.ibuf := rfl
@[simp] theorem drawCompression_mbuf (s : State) : (drawCompression s).mbuf = s.mbuf := rfl
@[simp] theorem drawCompression_work (s : State) : (drawCompression s).work = Config.freeWork s.draws := rfl
@[simp] theorem drawCompression_sched (s : State) : (drawCompression s).sched = Config.freeSched s.draws := rfl
@[simp] theorem drawCompression_scratch (s : State) : (drawCompression s).scratch = s.scratch := rfl
@[simp] theorem drawCompression_phase (s : State) : (drawCompression s).phase = s.phase := rfl
@[simp] theorem drawCompression_blk (s : State) : (drawCompression s).blk = Config.freeBlk s.draws := rfl
@[simp] theorem drawCompression_t (s : State) : (drawCompression s).t = Config.freeT s.draws := rfl
@[simp] theorem drawCompression_cfg (s : State) : (drawCompression s).cfg = s.cfg := rfl
@[simp] theorem drawCompression_inputs (s : State) : (drawCompression s).inputs = s.inputs := rfl
@[simp] theorem drawCompression_rsp (s : State) : (drawCompression s).rsp = s.rsp := rfl
@[simp] theorem drawCompression_epoch (s : State) : (drawCompression s).epoch = s.epoch := rfl
@[simp] theorem drawCompression_draws (s : State) : (drawCompression s).draws = s.draws + 1 := rfl

/-! `takeEvent` -/

@[simp] theorem takeEvent_h (s : State) (rest : List HostEvent) : (takeEvent s rest).h = s.h := rfl
@[simp] theorem takeEvent_len (s : State) (rest : List HostEvent) : (takeEvent s rest).len = s.len := rfl
@[simp] theorem takeEvent_nwords (s : State) (rest : List HostEvent) : (takeEvent s rest).nwords = s.nwords := rfl
@[simp] theorem takeEvent_status (s : State) (rest : List HostEvent) : (takeEvent s rest).status = s.status := rfl
@[simp] theorem takeEvent_ibuf (s : State) (rest : List HostEvent) : (takeEvent s rest).ibuf = s.ibuf := rfl
@[simp] theorem takeEvent_mbuf (s : State) (rest : List HostEvent) : (takeEvent s rest).mbuf = s.mbuf := rfl
@[simp] theorem takeEvent_work (s : State) (rest : List HostEvent) : (takeEvent s rest).work = s.work := rfl
@[simp] theorem takeEvent_sched (s : State) (rest : List HostEvent) : (takeEvent s rest).sched = s.sched := rfl
@[simp] theorem takeEvent_scratch (s : State) (rest : List HostEvent) : (takeEvent s rest).scratch = s.scratch := rfl
@[simp] theorem takeEvent_phase (s : State) (rest : List HostEvent) : (takeEvent s rest).phase = s.phase := rfl
@[simp] theorem takeEvent_blk (s : State) (rest : List HostEvent) : (takeEvent s rest).blk = s.blk := rfl
@[simp] theorem takeEvent_t (s : State) (rest : List HostEvent) : (takeEvent s rest).t = s.t := rfl
@[simp] theorem takeEvent_cfg (s : State) (rest : List HostEvent) : (takeEvent s rest).cfg = s.cfg := rfl
@[simp] theorem takeEvent_inputs (s : State) (rest : List HostEvent) : (takeEvent s rest).inputs = rest := rfl
@[simp] theorem takeEvent_rsp (s : State) (rest : List HostEvent) : (takeEvent s rest).rsp = s.rsp := rfl
@[simp] theorem takeEvent_epoch (s : State) (rest : List HostEvent) : (takeEvent s rest).epoch = s.epoch := rfl
@[simp] theorem takeEvent_draws (s : State) (rest : List HostEvent) : (takeEvent s rest).draws = s.draws := rfl

/-! `idleStep` -/

@[simp] theorem idleStep_h (s : State) : (idleStep s).h = s.h := rfl
@[simp] theorem idleStep_len (s : State) : (idleStep s).len = s.len := rfl
@[simp] theorem idleStep_nwords (s : State) : (idleStep s).nwords = s.nwords := rfl
@[simp] theorem idleStep_status (s : State) : (idleStep s).status = s.status := rfl
@[simp] theorem idleStep_ibuf (s : State) : (idleStep s).ibuf = s.ibuf := rfl
@[simp] theorem idleStep_mbuf (s : State) : (idleStep s).mbuf = s.mbuf := rfl
@[simp] theorem idleStep_work (s : State) : (idleStep s).work = s.work := rfl
@[simp] theorem idleStep_sched (s : State) : (idleStep s).sched = s.sched := rfl
@[simp] theorem idleStep_scratch (s : State) : (idleStep s).scratch = s.scratch := rfl
@[simp] theorem idleStep_phase (s : State) : (idleStep s).phase = s.phase := rfl
@[simp] theorem idleStep_blk (s : State) : (idleStep s).blk = s.blk := rfl
@[simp] theorem idleStep_t (s : State) : (idleStep s).t = s.t := rfl
@[simp] theorem idleStep_cfg (s : State) : (idleStep s).cfg = s.cfg := rfl
@[simp] theorem idleStep_inputs (s : State) : (idleStep s).inputs = s.inputs := rfl
@[simp] theorem idleStep_rsp (s : State) : (idleStep s).rsp = none := rfl
@[simp] theorem idleStep_epoch (s : State) : (idleStep s).epoch = s.epoch := rfl
@[simp] theorem idleStep_draws (s : State) : (idleStep s).draws = s.draws := rfl

/-! `resetEvent` -/

@[simp] theorem resetEvent_h (s : State) : (resetEvent s).h = iv := rfl
@[simp] theorem resetEvent_len (s : State) : (resetEvent s).len = 0 := rfl
@[simp] theorem resetEvent_nwords (s : State) : (resetEvent s).nwords = 0 := rfl
@[simp] theorem resetEvent_status (s : State) : (resetEvent s).status = 0 := rfl
@[simp] theorem resetEvent_ibuf (s : State) : (resetEvent s).ibuf = [] := rfl
@[simp] theorem resetEvent_mbuf (s : State) : (resetEvent s).mbuf = [] := rfl
@[simp] theorem resetEvent_work (s : State) : (resetEvent s).work = Config.freeWork s.draws := rfl
@[simp] theorem resetEvent_sched (s : State) : (resetEvent s).sched = Config.freeSched s.draws := rfl
@[simp] theorem resetEvent_scratch (s : State) : (resetEvent s).scratch = Config.freeScratch (s.draws + 1) := rfl
@[simp] theorem resetEvent_phase (s : State) : (resetEvent s).phase = .idle := rfl
@[simp] theorem resetEvent_blk (s : State) : (resetEvent s).blk = Config.freeBlk s.draws := rfl
@[simp] theorem resetEvent_t (s : State) : (resetEvent s).t = Config.freeT s.draws := rfl
@[simp] theorem resetEvent_cfg (s : State) : (resetEvent s).cfg = s.cfg := rfl
@[simp] theorem resetEvent_inputs (s : State) : (resetEvent s).inputs = s.inputs := rfl
@[simp] theorem resetEvent_rsp (s : State) : (resetEvent s).rsp = none := rfl
@[simp] theorem resetEvent_epoch (s : State) : (resetEvent s).epoch = s.epoch + 1 := rfl
@[simp] theorem resetEvent_draws (s : State) : (resetEvent s).draws = s.draws + 2 := rfl

end Sys2Proof.Machine
end

