-- ==== Sys2Proof/Laws/Memory.lean ====
section
/-! SUPPORT. The laws of the two memories (20_memory.md R63): a write is read back, other elements are untouched, and
every operation keeps the canonical form. -/
namespace Sys2Proof.Machine

variable {n : Nat}

theorem Memory.write_keys {m : List (Nat × BitVec n)} {k : Nat} {v : BitVec n} {x : Nat × BitVec n}
    (hx : x ∈ Memory.write m k v) : x.1 = k ∨ x ∈ m := by
  induction m with
  | nil => simp [Memory.write] at hx; simp [hx]
  | cons y m ih =>
    obtain ⟨a, u⟩ := y
    simp only [Memory.write] at hx
    split at hx
    · simp only [List.mem_cons] at hx ⊢; rcases hx with rfl | hx | hx <;> simp [*]
    · split at hx
      · simp only [List.mem_cons] at hx ⊢; rcases hx with rfl | hx <;> simp [*]
      · simp only [List.mem_cons] at hx ⊢
        rcases hx with rfl | hx
        · simp
        · rcases ih hx with h | h <;> simp [h]

/-- A write keeps the indices rising. -/
theorem Memory.write_wf {m : List (Nat × BitVec n)} (hm : Memory.wf m) (k : Nat) (v : BitVec n) :
    Memory.wf (Memory.write m k v) := by
  induction m with
  | nil => simp [Memory.write]
  | cons y m ih =>
    obtain ⟨a, u⟩ := y
    obtain ⟨hlt, hm'⟩ := List.pairwise_cons.1 hm
    simp only [Memory.write]
    split
    · refine List.pairwise_cons.2 ⟨fun x hx => ?_, hm⟩
      rcases List.mem_cons.1 hx with rfl | hx
      · assumption
      · exact lt_trans ‹_› (hlt x hx)
    · split
      · subst_vars; exact List.pairwise_cons.2 ⟨hlt, hm'⟩
      · refine List.pairwise_cons.2 ⟨fun x hx => ?_, ih hm'⟩
        rcases Memory.write_keys hx with h | h
        · simp only [h]; omega
        · exact hlt x h

/-- Consecutive writes keep the indices rising. -/
theorem Memory.writeFrom_wf {m : List (Nat × BitVec n)} (hm : Memory.wf m) (k : Nat) (vs : List (BitVec n)) :
    Memory.wf (Memory.writeFrom m k vs) := by
  induction vs generalizing m k with
  | nil => exact hm
  | cons v vs ih => exact ih (Memory.write_wf hm k v) (k + 1)

theorem Memory.read?_eq_none_of_lt {m : List (Nat × BitVec n)} {k : Nat} (h : ∀ x ∈ m, k < x.1) :
    Memory.read? m k = none := by
  induction m with
  | nil => rfl
  | cons y m ih =>
    have hy := h y (by simp)
    simp only [Memory.read?]
    rw [if_neg (by omega)]
    exact ih fun x hx => h x (by simp [hx])

/-- The element written is read back (R63); no canonical form is needed. -/
@[simp] theorem Memory.read?_write_self (m : List (Nat × BitVec n)) (k : Nat) (v : BitVec n) :
    Memory.read? (Memory.write m k v) k = some v := by
  induction m with
  | nil => simp [Memory.write, Memory.read?]
  | cons y m ih =>
    obtain ⟨a, u⟩ := y
    simp only [Memory.write]
    split
    · simp [Memory.read?]
    · split
      · simp [Memory.read?]
      · have : a ≠ k := by omega
        simp [Memory.read?, this, ih]

/-- Every other element reads as before (R63). -/
theorem Memory.read?_write_of_ne (m : List (Nat × BitVec n)) {k j : Nat} (v : BitVec n) (hj : j ≠ k) :
    Memory.read? (Memory.write m k v) j = Memory.read? m j := by
  induction m with
  | nil => simp [Memory.write, Memory.read?, hj.symm]
  | cons y m ih =>
    obtain ⟨a, u⟩ := y
    simp only [Memory.write]
    split
    · simp [Memory.read?, hj.symm]
    · split
      · subst_vars; simp [Memory.read?, hj.symm]
      · simp [Memory.read?, ih]

/-- What consecutive writes leave at an index: the element stored there, or what was there before (R62, R63). -/
theorem Memory.read?_writeFrom (m : List (Nat × BitVec n)) (k : Nat) (vs : List (BitVec n)) (j : Nat) :
    Memory.read? (Memory.writeFrom m k vs) j =
      if k ≤ j ∧ j < k + vs.length then vs[j - k]? else Memory.read? m j := by
  induction vs generalizing m k with
  | nil => simp [Memory.writeFrom]
  | cons v vs ih =>
    simp only [Memory.writeFrom, ih, List.length_cons]
    by_cases hjk : j = k
    · subst hjk; simp
    · rw [Memory.read?_write_of_ne m v hjk]
      by_cases h : k + 1 ≤ j ∧ j < k + 1 + vs.length
      · rw [if_pos h, if_pos (by omega)]
        obtain ⟨d, rfl⟩ : ∃ d, j = k + 1 + d := ⟨j - (k + 1), by omega⟩
        have e1 : k + 1 + d - (k + 1) = d := by omega
        have e2 : k + 1 + d - k = d + 1 := by omega
        simp [e1, e2]
      · rw [if_neg h, if_neg (by omega)]

theorem Memory.writeFrom_keys {m : List (Nat × BitVec n)} {k : Nat} {vs : List (BitVec n)} {x : Nat × BitVec n}
    (hx : x ∈ Memory.writeFrom m k vs) : (k ≤ x.1 ∧ x.1 < k + vs.length) ∨ x ∈ m := by
  induction vs generalizing m k with
  | nil => exact .inr hx
  | cons v vs ih =>
    simp only [List.length_cons]
    rcases ih hx with h | h
    · left; omega
    · rcases Memory.write_keys h with h | h
      · left; omega
      · exact .inr h

/-- The memories of the reset state are in canonical form. -/
theorem reset_memories_wf (c : Config) :
    Memory.wf (State.resetWith c).ibuf ∧ Memory.wf (State.resetWith c).mbuf := by
  simp [State.resetWith]

/-- `MemRead` after `MemWrite` on `IBUF`. -/
@[simp] theorem readIbuf_writeIbuf_self (s : State) (k : Nat) (b : Byte) : readIbuf (writeIbuf s k b) k = b := by
  simp [readIbuf]

theorem readIbuf_writeIbuf_of_ne (s : State) {k j : Nat} (b : Byte) (h : j ≠ k) :
    readIbuf (writeIbuf s k b) j = readIbuf s j := by
  simp [readIbuf, Memory.read?_write_of_ne _ _ h]

/-- A read of `IBUF` depends on `IBUF` and the reset count alone. -/
theorem readIbuf_congr {s t : State} (h : t.ibuf = s.ibuf) (he : t.epoch = s.epoch) (k : Nat) :
    readIbuf t k = readIbuf s k := by
  simp [readIbuf, h, he]

/-- A read of `MBUF` depends on `MBUF` and the reset count alone. -/
theorem readMbuf_congr {s t : State} (h : t.mbuf = s.mbuf) (he : t.epoch = s.epoch) (j : Nat) :
    readMbuf t j = readMbuf s j := by
  simp [readMbuf, h, he]

theorem inputBytes_congr {s t : State} (h : t.ibuf = s.ibuf) (he : t.epoch = s.epoch) (hl : t.len = s.len) :
    inputBytes t = inputBytes s := by
  simp only [inputBytes, hl]
  exact List.map_congr_left fun k _ => readIbuf_congr h he k

theorem messageWords_congr {s t : State} (h : t.mbuf = s.mbuf) (he : t.epoch = s.epoch) (hn : t.nwords = s.nwords) :
    messageWords t = messageWords s := by
  simp only [messageWords, hn]
  exact List.map_congr_left fun j _ => readMbuf_congr h he j

@[simp] theorem inputBytes_length (s : State) : (inputBytes s).length = s.len := by simp [inputBytes]

@[simp] theorem messageWords_length (s : State) : (messageWords s).length = s.nwords := by simp [messageWords]

/-! What these updates leave readable: they write neither memory, neither count. -/

@[simp] theorem readIbuf_raise (e : ErrFlag) (s : State) (k : Nat) : readIbuf (raise e s) k = readIbuf s k := rfl
@[simp] theorem readMbuf_raise (e : ErrFlag) (s : State) (j : Nat) : readMbuf (raise e s) j = readMbuf s j := rfl
@[simp] theorem inputBytes_raise (e : ErrFlag) (s : State) : inputBytes (raise e s) = inputBytes s := rfl
@[simp] theorem messageWords_raise (e : ErrFlag) (s : State) : messageWords (raise e s) = messageWords s := rfl
@[simp] theorem readIbuf_clearErrors (s : State) (k : Nat) : readIbuf (clearErrors s) k = readIbuf s k := rfl
@[simp] theorem readMbuf_clearErrors (s : State) (j : Nat) : readMbuf (clearErrors s) j = readMbuf s j := rfl
@[simp] theorem inputBytes_clearErrors (s : State) : inputBytes (clearErrors s) = inputBytes s := rfl
@[simp] theorem messageWords_clearErrors (s : State) : messageWords (clearErrors s) = messageWords s := rfl
@[simp] theorem readIbuf_respond (s : State) (v : Word) (k : Nat) : readIbuf (respond s v) k = readIbuf s k := rfl
@[simp] theorem readMbuf_respond (s : State) (v : Word) (j : Nat) : readMbuf (respond s v) j = readMbuf s j := rfl
@[simp] theorem inputBytes_respond (s : State) (v : Word) : inputBytes (respond s v) = inputBytes s := rfl
@[simp] theorem messageWords_respond (s : State) (v : Word) : messageWords (respond s v) = messageWords s := rfl
@[simp] theorem readIbuf_respondStatus (s : State) (k : Nat) : readIbuf (respondStatus s) k = readIbuf s k := rfl
@[simp] theorem readMbuf_respondStatus (s : State) (j : Nat) : readMbuf (respondStatus s) j = readMbuf s j := rfl
@[simp] theorem inputBytes_respondStatus (s : State) : inputBytes (respondStatus s) = inputBytes s := rfl
@[simp] theorem messageWords_respondStatus (s : State) : messageWords (respondStatus s) = messageWords s := rfl
@[simp] theorem readIbuf_loadIv (s : State) (k : Nat) : readIbuf (loadIv s) k = readIbuf s k := rfl
@[simp] theorem readMbuf_loadIv (s : State) (j : Nat) : readMbuf (loadIv s) j = readMbuf s j := rfl
@[simp] theorem inputBytes_loadIv (s : State) : inputBytes (loadIv s) = inputBytes s := rfl
@[simp] theorem messageWords_loadIv (s : State) : messageWords (loadIv s) = messageWords s := rfl
@[simp] theorem readIbuf_foldMessage (s : State) (k : Nat) : readIbuf (foldMessage s) k = readIbuf s k := rfl
@[simp] theorem readMbuf_foldMessage (s : State) (j : Nat) : readMbuf (foldMessage s) j = readMbuf s j := rfl
@[simp] theorem inputBytes_foldMessage (s : State) : inputBytes (foldMessage s) = inputBytes s := rfl
@[simp] theorem messageWords_foldMessage (s : State) : messageWords (foldMessage s) = messageWords s := rfl
@[simp] theorem readIbuf_drawScratch (s : State) (k : Nat) : readIbuf (drawScratch s) k = readIbuf s k := rfl
@[simp] theorem readMbuf_drawScratch (s : State) (j : Nat) : readMbuf (drawScratch s) j = readMbuf s j := rfl
@[simp] theorem inputBytes_drawScratch (s : State) : inputBytes (drawScratch s) = inputBytes s := rfl
@[simp] theorem messageWords_drawScratch (s : State) : messageWords (drawScratch s) = messageWords s := rfl
@[simp] theorem readIbuf_drawCompression (s : State) (k : Nat) : readIbuf (drawCompression s) k = readIbuf s k := rfl
@[simp] theorem readMbuf_drawCompression (s : State) (j : Nat) : readMbuf (drawCompression s) j = readMbuf s j := rfl
@[simp] theorem inputBytes_drawCompression (s : State) : inputBytes (drawCompression s) = inputBytes s := rfl
@[simp] theorem messageWords_drawCompression (s : State) : messageWords (drawCompression s) = messageWords s := rfl
@[simp] theorem readIbuf_takeEvent (s : State) (rest : List HostEvent) (k : Nat) : readIbuf (takeEvent s rest) k = readIbuf s k := rfl
@[simp] theorem readMbuf_takeEvent (s : State) (rest : List HostEvent) (j : Nat) : readMbuf (takeEvent s rest) j = readMbuf s j := rfl
@[simp] theorem inputBytes_takeEvent (s : State) (rest : List HostEvent) : inputBytes (takeEvent s rest) = inputBytes s := rfl
@[simp] theorem messageWords_takeEvent (s : State) (rest : List HostEvent) : messageWords (takeEvent s rest) = messageWords s := rfl
@[simp] theorem readIbuf_idleStep (s : State) (k : Nat) : readIbuf (idleStep s) k = readIbuf s k := rfl
@[simp] theorem readMbuf_idleStep (s : State) (j : Nat) : readMbuf (idleStep s) j = readMbuf s j := rfl
@[simp] theorem inputBytes_idleStep (s : State) : inputBytes (idleStep s) = inputBytes s := rfl
@[simp] theorem messageWords_idleStep (s : State) : messageWords (idleStep s) = messageWords s := rfl

end Sys2Proof.Machine
end

