-- ==== Sys2Proof/Laws/Pure.lean ====
section
/-! SUPPORT. Sizes of the pure functions' results and how digit strings fold over a cons, for proofs to cite. -/
namespace Sys2Proof.Machine

@[simp] theorem packBytes_length (u : List Byte) : (packBytes u).length = ceilDiv u.length 4 := by simp [packBytes]

@[simp] theorem packNibbles_length (e : List Nibble) : (packNibbles e).length = ceilDiv e.length 8 := by
  simp [packNibbles]

/-- The value of a packed word: no carry and nothing lost (R66). -/
theorem bytesWord_toNat (b3 b2 b1 b0 : Byte) :
    (bytesWord b3 b2 b1 b0).toNat = b3.toNat * 16777216 + b2.toNat * 65536 + b1.toNat * 256 + b0.toNat := by
  have h3 := b3.isLt
  have h2 := b2.isLt
  have h1 := b1.isLt
  have h0 := b0.isLt
  rw [bytesWord, BitVec.toNat_ofNat]
  norm_num only
  omega

/-- Byte `r` of a packed word, most significant first (R66). -/
theorem bytesWord_byte (b3 b2 b1 b0 : Byte) (r : Nat) (hr : r < 4) :
    (bytesWord b3 b2 b1 b0).extractLsb' (24 - 8 * r) 8 = [b3, b2, b1, b0].getD r 0 := by
  have h3 := b3.isLt
  have h2 := b2.isLt
  have h1 := b1.isLt
  have h0 := b0.isLt
  apply BitVec.eq_of_toNat_eq
  rw [BitVec.extractLsb'_toNat, Nat.shiftRight_eq_div_pow, bytesWord_toNat]
  interval_cases r <;> norm_num only <;> simp only [List.getD_cons_zero, List.getD_cons_succ] <;> omega

/-- The value of a packed word of digits (R67). -/
theorem nibblesWord_toNat (e : List Nibble) (k : Nat) :
    (nibblesWord e k).toNat =
      (nibAt e k).toNat * 268435456 + (nibAt e (k + 1)).toNat * 16777216 + (nibAt e (k + 2)).toNat * 1048576 +
      (nibAt e (k + 3)).toNat * 65536 + (nibAt e (k + 4)).toNat * 4096 + (nibAt e (k + 5)).toNat * 256 +
      (nibAt e (k + 6)).toNat * 16 + (nibAt e (k + 7)).toNat := by
  have b : ∀ j, (nibAt e j).toNat < 16 := fun j => (nibAt e j).isLt
  have h0 := b k
  have h1 := b (k + 1)
  have h2 := b (k + 2)
  have h3 := b (k + 3)
  have h4 := b (k + 4)
  have h5 := b (k + 5)
  have h6 := b (k + 6)
  have h7 := b (k + 7)
  rw [nibblesWord, BitVec.toNat_ofNat]
  norm_num only
  omega

/-- A finished message is a positive number of whole blocks, with exactly two length words after the fill. -/
theorem finishPadding_length (p : List Word) (bits : BitVec 64) :
    (finishPadding p bits).length = p.length + zeroCount p.length + 2 := by
  simp [finishPadding]; omega

theorem zeroCount_lt (n0 : Nat) : zeroCount n0 < 16 := Nat.mod_lt _ (by omega)

theorem zeroCount_spec (n0 : Nat) : (n0 + zeroCount n0 + 2) % 16 = 0 := by
  simp only [zeroCount]; omega

theorem finishPadding_whole_blocks (p : List Word) (bits : BitVec 64) :
    (finishPadding p bits).length % 16 = 0 := by
  rw [finishPadding_length]; exact zeroCount_spec _

theorem evenDigits_length (d : List Nibble) : (evenDigits d).length = d.length + d.length % 2 := by
  unfold evenDigits
  split
  · simp; omega
  · omega

theorem hexDigits_cons (c : Byte) (cs : List Byte) :
    hexDigits (c :: cs) =
      (match hexval c, hexDigits cs with
       | some d, some ds => some (d :: ds)
       | _, _ => none) := rfl

/-- A valid digit string has as many values as characters. -/
theorem hexDigits_length {cs : List Byte} {d : List Nibble} (h : hexDigits cs = some d) : d.length = cs.length := by
  induction cs generalizing d with
  | nil => simp [hexDigits] at h; simp [← h]
  | cons c cs ih =>
    rw [hexDigits_cons] at h
    split at h
    · rename_i heq
      simp only [Option.some.injEq] at h
      subst h
      simp [ih heq]
    · simp at h

/-- `expandFrom` appends one word a step. -/
theorem expandFrom_length (n : Nat) (w : List Word) : (expandFrom n w).length = w.length + n := by
  induction n generalizing w with
  | zero => rfl
  | succ n ih => simp only [expandFrom, ih, List.length_append, List.length_singleton]; omega

@[simp] theorem compressAll_nil (h : Words8) : compressAll h [] = h := rfl

@[simp] theorem wordList_length (v : Words8) : (wordList v).length = 8 := rfl

end Sys2Proof.Machine
end

