-- ==== Sys2Proof/Laws/Ops.lean ====
section
/-! SUPPORT. One lemma per shared operation of Machine/Ops.lean that says everything it can do, for proofs to cite
instead of unfolding it. -/
namespace Sys2Proof.Machine

@[simp] theorem finish_eq (s : State) : finish s = .next (respondStatus s) := rfl

@[simp] theorem andThen_next (s : State) (f : State → Result) : andThen (.next s) f = f s := rfl

@[simp] theorem andThen_fault (x : Fault) (f : State → Result) : andThen (.fault x) f = .fault x := rfl

@[simp] theorem andThen_refused (x : Refusal) (f : State → Result) : andThen (.refused x) f = .refused x := rfl

/-- A sequence answers a next state exactly when both parts do. -/
theorem andThen_eq_next {r : Result} {f : State → Result} {t : State} :
    andThen r f = .next t ↔ ∃ s, r = .next s ∧ f s = .next t := by
  cases r <;> simp

/-- A fitting message is stored from index 0 and counted; the scratch is drawn (R156, R180). -/
theorem putMessage_next {s t : State} {m : List Word} (h : putMessage s m = .next t) :
    m.length ≤ mbufWords s.cfg ∧
      t = drawScratch (storeMessage s m) := by
  unfold putMessage at h
  split at h
  · exact ⟨‹_›, by simpa using h.symm⟩
  · simp at h

theorem putMessage_fits {s : State} {m : List Word} (h : m.length ≤ mbufWords s.cfg) :
    putMessage s m = .next (drawScratch (storeMessage s m)) := if_pos h

/-- The stored message reads back word for word (R156, R180). -/
theorem messageWords_stored (s : State) (m : List Word) :
    messageWords (storeMessage s m) = m := by
  apply List.ext_getElem
  · simp
  · intro j h1 h2
    simp [messageWords, readMbuf, Memory.read?_writeFrom, h2]

/-- What the text preprocessor run can do (R156, R157). -/
theorem runPadText_next {s t : State} (h : runPadText s = .next t) :
    (flagSet s.status .eovf = true ∧ t = dropMessage s) ∨
    (flagSet s.status .eovf = false ∧ s.len ≤ s.cfg.ibufBytes ∧
      putMessage s (padText (inputBytes s)) = .next t) := by
  unfold runPadText at h
  split at h
  · exact .inl ⟨‹_›, by simpa using h.symm⟩
  · split at h
    · exact .inr ⟨(Bool.not_eq_true _).mp ‹_›, ‹_›, h⟩
    · simp at h

/-- What the hex preprocessor run can do (R180, R181, R182). -/
theorem runPadHex_next {s t : State} (h : runPadHex s = .next t) :
    (flagSet s.status .eovf = true ∧ t = dropMessage s) ∨
    (flagSet s.status .eovf = false ∧ s.len ≤ s.cfg.ibufBytes ∧
      ((∃ d, hexDigits (inputBytes s) = some d ∧ putMessage s (padHex d) = .next t) ∨
       (hexDigits (inputBytes s) = none ∧ t = drawScratch (dropMessage (raise .ehex s))))) := by
  unfold runPadHex at h
  split at h
  · exact .inl ⟨‹_›, by simpa using h.symm⟩
  · split at h
    · refine .inr ⟨(Bool.not_eq_true _).mp ‹_›, ‹_›, ?_⟩
      split at h
      · exact .inl ⟨_, ‹_›, h⟩
      · exact .inr ⟨‹_›, by simpa using h.symm⟩
    · simp at h

/-- What the compression run can do (R216). -/
theorem runCompress_next {s t : State} (h : runCompress s = .next t) :
    s.nwords % 16 = 0 ∧ s.nwords ≤ mbufWords s.cfg ∧
      t = drawCompression (foldMessage s) := by
  unfold runCompress at h
  split at h
  · split at h
    · exact ⟨‹_›, ‹_›, by simpa using h.symm⟩
    · simp at h
  · simp at h

theorem runCompress_fits {s : State} (h : s.nwords % 16 = 0) (hb : s.nwords ≤ mbufWords s.cfg) :
    runCompress s = .next (drawCompression (foldMessage s)) := by
  simp [runCompress, h, hb]

end Sys2Proof.Machine
end

