-- ==== Sys2Proof/Laws/PerInstr.lean ====
section
/-! SUPPORT. The per-instruction family `Row`: every command's word belongs to the opcode table's row of its mnemonic
(30_encoding.md R92) and carries its OP and ARG in bits 31:24 and 23:0 (R90). -/
namespace Sys2Proof.Laws.Row

/-- The word of `i` is accepted by the row of its mnemonic, and its two fields are the opcode and the operand. -/
def Statement (i : Instr) : Prop :=
  (∃ r ∈ opcodeRows, r.mnemonic = mnemonic i ∧ r.accepts (encode i) = true) ∧
  opField (encode i) = opcode i ∧ argField (encode i) = argOf i

theorem fields_encode (op : BitVec 8) (arg : BitVec 24) :
    opField (op ++ arg : BitVec 32) = op ∧ argField (op ++ arg : BitVec 32) = arg := by
  constructor
  · apply BitVec.eq_of_getLsbD_eq
    intro k hk
    simp only [opField, BitVec.getLsbD_extractLsb', BitVec.getLsbD_append]
    rw [if_neg (by omega)]
    simp [hk]
  · apply BitVec.eq_of_getLsbD_eq
    intro k hk
    simp only [argField, BitVec.getLsbD_extractLsb', BitVec.getLsbD_append]
    rw [if_pos (by omega)]
    simp [hk]

theorem nop : Statement .nop := ⟨⟨opcodeRows[0], by decide⟩, by decide⟩
theorem clr : Statement .clr := ⟨⟨opcodeRows[1], by decide⟩, by decide⟩

theorem push (b : BitVec 8) : Statement (.push b) := by
  refine ⟨⟨opcodeRows[2], by decide, rfl, ?_⟩, fields_encode _ _⟩
  revert b; decide +kernel

theorem init : Statement .init := ⟨⟨opcodeRows[3], by decide⟩, by decide⟩
theorem ptxt : Statement .ptxt := ⟨⟨opcodeRows[4], by decide⟩, by decide⟩
theorem phex : Statement .phex := ⟨⟨opcodeRows[5], by decide⟩, by decide⟩
theorem cmpr : Statement .cmpr := ⟨⟨opcodeRows[6], by decide⟩, by decide⟩
theorem htxt : Statement .htxt := ⟨⟨opcodeRows[7], by decide⟩, by decide⟩
theorem hhex : Statement .hhex := ⟨⟨opcodeRows[8], by decide⟩, by decide⟩

theorem rdh (i : BitVec 3) : Statement (.rdh i) := by
  refine ⟨⟨opcodeRows[9], by decide, rfl, ?_⟩, fields_encode _ _⟩
  revert i; decide

theorem rdw (j : BitVec 24) : Statement (.rdw j) := by
  refine ⟨⟨opcodeRows[10], by decide, rfl, ?_⟩, fields_encode _ _⟩
  have h : (encode (.rdw j) &&& 0xFF000000#32) = 0x0A000000#32 := by
    have e : (0xFF000000#32 : BitVec 32) = (0xFF#8 ++ 0x000000#24 : BitVec 32) := by decide
    have e2 : (0x0A000000#32 : BitVec 32) = (0x0A#8 ++ 0x000000#24 : BitVec 32) := by decide
    rw [e, e2]
    show (0x0A#8 ++ j : BitVec 32) &&& (0xFF#8 ++ 0x000000#24 : BitVec 32) = (0x0A#8 ++ 0x000000#24 : BitVec 32)
    rw [BitVec.and_append]
    simp
  exact beq_iff_eq.2 h

theorem rds (s : BitVec 2) : Statement (.rds s) := by
  refine ⟨⟨opcodeRows[11], by decide, rfl, ?_⟩, fields_encode _ _⟩
  revert s; decide

end Sys2Proof.Laws.Row
end

