-- ==== Sys2Proof/Tests/Slice0.lean ====
section
/-! SUPPORT. The author's tests: what the spec's examples and tables say, one step at a time, and for every statement
with hypotheses a state and operands that meet them together. -/
namespace Sys2Proof.Tests
open Sys2Proof Sys2Proof.Machine

/-! Small states: the reset state of a buffer size with an input pushed, a message padded, or flags set. -/

/-- `n` bytes of buffer holding the input `bs`. -/
def holding (n : Nat) (bs : List Byte) : State :=
  { State.resetWith ⟨n⟩ with len := bs.length, ibuf := Memory.writeFrom [] 0 bs }

/-- The same with the padded message `m`. -/
def padded (n : Nat) (bs : List Byte) (m : List Word) : State :=
  { holding n bs with nwords := m.length, mbuf := Memory.writeFrom [] 0 m }

/-- "abc" (95_test_vectors.md V2). -/
def abc : List Byte := [0x61#8, 0x62#8, 0x63#8]

/-- The padded message of "abc" as V2 gives it. -/
def abcBlock : List Word :=
  [0x61626380#32, 0, 0, 0, 0, 0, 0, 0, 0, 0, 0, 0, 0, 0, 0, 0x00000018#32]

/-- "61b" (V12) and "6g" (V14). -/
def digits61b : List Byte := [0x36#8, 0x31#8, 0x62#8]
def digits6g : List Byte := [0x36#8, 0x67#8]

/-- The state with error flags set. -/
def flagged (w : Word) (s : State) : State := { s with status := w }

/-- The state with events pending on the port. -/
def facing (es : List HostEvent) (s : State) : State := { s with inputs := es }

/-- A field of the next state, if there is one. -/
def seen {α : Type} (r : Result) (f : State → α) : Option α := (nextOf r).map f

theorem next_of_seen {r : Result} (h : (nextOf r).isSome = true) : ∃ t, r = .next t := by
  cases r with
  | next t => exact ⟨t, rfl⟩
  | fault x => exact absurd h (by simp [nextOf])
  | refused x => exact absurd h (by simp [nextOf])

/-! WellFormed: the one ill-formed term is refused, its neighbours are not. -/

theorem test_rds_three_ill_formed : wellFormed (.rds 3#2) = false := by decide
theorem test_rds_two_well_formed : wellFormed (.rds 2#2) = true := by decide

/-! Decoding: words written out from the fields of 30_encoding.md R90 to R92 (and V23). -/

theorem test_decode_nop : decode 0b00000000000000000000000000000000#32 = .legal .nop := by decide
theorem test_decode_clr : decode 0b00000001000000000000000000000000#32 = .legal .clr := by decide
theorem test_decode_push : decode 0b00000010000000000000000010110001#32 = .legal (.push 0xB1#8) := by decide
theorem test_decode_init : decode 0b00000011000000000000000000000000#32 = .legal .init := by decide
theorem test_decode_ptxt : decode 0b00000100000000000000000000000000#32 = .legal .ptxt := by decide
theorem test_decode_phex : decode 0b00000101000000000000000000000000#32 = .legal .phex := by decide
theorem test_decode_cmpr : decode 0b00000110000000000000000000000000#32 = .legal .cmpr := by decide
theorem test_decode_htxt : decode 0b00000111000000000000000000000000#32 = .legal .htxt := by decide
theorem test_decode_hhex : decode 0b00001000000000000000000000000000#32 = .legal .hhex := by decide
theorem test_decode_rdh : decode 0b00001001000000000000000000000110#32 = .legal (.rdh 6#3) := by decide
theorem test_decode_rdw : decode 0b00001010100000000000000000000001#32 = .legal (.rdw 0x800001#24) := by decide
theorem test_decode_rds : decode 0b00001011000000000000000000000001#32 = .legal (.rds 1#2) := by decide

/-- R94: one word of each illegal class, by its class. -/
theorem test_decode_illegal :
    decode 0x0C000000#32 = .illegal .unassignedOp ∧ decode 0xFFFFFFFF#32 = .illegal .unassignedOp ∧
    decode 0x00000001#32 = .illegal .argNotZero ∧ decode 0x08800000#32 = .illegal .argNotZero ∧
    decode 0x02000100#32 = .illegal .pushArgHigh ∧ decode 0x09000008#32 = .illegal .rdhArgHigh ∧
    decode 0x0B000004#32 = .illegal .rdsArgHigh ∧ decode 0x0B000003#32 = .illegal .rdsSelThree := by decide

/-- The table's numbering: the row's own bits, and zeros above them. -/
theorem test_table_word :
    decodeTableWord 32 0x02000061 = some (.push 0x61#8) ∧ decodeTableWord 8 0x0B000002 = none := by decide

/-- A table word is run by the very next step after reset. -/
theorem test_first_step_runs_word :
    seen (step (State.reset.withFetchWord 32 0x02000061)) (fun t => (t.len, t.rsp)) = some (1, some 0#32) ∧
    seen (step (State.reset.withFetchWord 32 0x09000000)) (fun t => t.rsp) = some (some 0x6a09e667#32) := by decide

/-! One step of each command, from the worked example of its rule. -/

/-- R243. -/
theorem test_nop_returns_status : seen (exec .nop (flagged 5#32 State.reset)) (fun t => t.rsp) = some (some 5#32) := by
  decide

/-- R244's worked example. -/
theorem test_clr_clears :
    seen (exec .clr (flagged 5#32 (padded 8 abc abcBlock))) (fun t => (t.len, t.nwords, t.status, t.rsp)) =
      some (0, 0, 0#32, some 0#32) := by decide

/-- R246's worked examples: a byte appended, and a full buffer of four. -/
theorem test_push_appends :
    seen (exec (.push 0x61#8) State.reset) (fun t => (readIbuf t 0, t.len, t.rsp)) = some (0x61#8, 1, some 0#32) := by
  decide
theorem test_push_full :
    seen (exec (.push 0x65#8) (holding 4 [1, 2, 3, 4])) (fun t => (t.len, t.status, t.rsp)) =
      some (4, 2#32, some 2#32) := by decide

/-- R215's worked example. -/
theorem test_init_loads_iv :
    seen (exec .init { State.reset with h := ⟨0, 0, 0, 0, 0, 0, 0, 0⟩ }) (fun t => (t.h.a, t.h.h)) =
      some (0x6a09e667#32, 0x5be0cd19#32) := by decide

/-- R156's worked example, and R157. -/
theorem test_ptxt_abc : seen (exec .ptxt (holding 4 abc)) messageWords = some abcBlock := by decide
theorem test_ptxt_overflowed :
    seen (exec .ptxt (flagged 2#32 (padded 3 abc abcBlock))) (fun t => (t.nwords, t.rsp)) = some (0, some 2#32) := by
  decide

/-- R180's worked example "61b", and R182's "6g". -/
theorem test_phex_odd :
    seen (exec .phex (holding 4 digits61b)) (fun t => (readMbuf t 0, readMbuf t 15, t.nwords)) =
      some (0x061b8000#32, 0x00000010#32, 16) := by decide
theorem test_phex_invalid :
    seen (exec .phex (padded 4 digits6g abcBlock)) (fun t => (t.nwords, t.status, readMbuf t 0)) =
      some (0, 1#32, 0x61626380#32) := by decide

/-- R216's worked example, and R217 (b): a second `CMPR` chains. -/
theorem test_cmpr_abc :
    seen (exec .cmpr (padded 4 abc abcBlock)) (fun t => wordList t.h) =
      some [0xba7816bf#32, 0x8f01cfea#32, 0x414140de#32, 0x5dae2223#32, 0xb00361a3#32, 0x96177a9c#32, 0xb410ff61#32,
        0xf20015ad#32] := by decide +kernel
theorem test_cmpr_chains :
    seen (exec .cmpr { padded 4 abc abcBlock with
        h := ⟨0xba7816bf, 0x8f01cfea, 0x414140de, 0x5dae2223, 0xb00361a3, 0x96177a9c, 0xb410ff61, 0xf20015ad⟩ })
      (fun t => wordList t.h) =
      some [0x1de51655#32, 0xe1a8ca5f#32, 0x570c062c#32, 0x6fef497d#32, 0xd8110762#32, 0xbd8a7a48#32, 0xdd95482f#32,
        0x7d22e0a2#32] := by decide +kernel

/-- R248's worked example with `H` not `IV` before, and the overflow case. -/
theorem test_htxt_abc :
    seen (exec .htxt { holding 4 abc with h := ⟨1, 2, 3, 4, 5, 6, 7, 8⟩ }) (fun t => (t.h.a, t.h.h, t.nwords, t.rsp)) =
      some (0xba7816bf#32, 0xf20015ad#32, 16, some 0#32) := by decide +kernel
theorem test_htxt_overflowed :
    seen (exec .htxt { flagged 2#32 (holding 3 abc) with h := ⟨1, 2, 3, 4, 5, 6, 7, 8⟩ })
      (fun t => (t.h, t.nwords, t.rsp)) = some (iv, 0, some 2#32) := by decide

/-- R249's worked examples "61b" and "6g". -/
theorem test_hhex_odd :
    seen (exec .hhex (holding 4 digits61b)) (fun t => wordList t.h) =
      some [0x605b90e2#32, 0xa138eef0#32, 0x1671e0f7#32, 0x1a69a504#32, 0x72a589ab#32, 0x76436fc4#32, 0xd38e37fd#32,
        0xcd4f2710#32] := by decide +kernel
theorem test_hhex_invalid :
    seen (exec .hhex { holding 4 digits6g with h := ⟨1, 2, 3, 4, 5, 6, 7, 8⟩ })
      (fun t => (t.h, t.nwords, t.rsp)) = some (iv, 0, some 1#32) := by decide

/-- R250: `H[7]` is the last word. -/
theorem test_rdh_last :
    seen (exec (.rdh 7) { State.reset with h := ⟨1, 2, 3, 4, 5, 6, 7, 8⟩ }) (fun t => t.rsp) = some (some 8#32) := by
  decide

/-- R252's worked example: the last word, and one past it. -/
theorem test_rdw_last : seen (exec (.rdw 15) (padded 4 abc abcBlock)) (fun t => t.rsp) = some (some 0x18#32) := by decide
theorem test_rdw_past :
    seen (exec (.rdw 16) (padded 4 abc abcBlock)) (fun t => (t.status, t.rsp)) = some (4#32, some 4#32) := by decide

/-- R254's worked example. -/
theorem test_rds_counts :
    seen (exec (.rds 1) (padded 4 abc abcBlock)) (fun t => t.rsp) = some (some 3#32) ∧
    seen (exec (.rds 2) (padded 4 abc abcBlock)) (fun t => t.rsp) = some (some 16#32) := by decide

/-- R283: the flag is added to those set. -/
theorem test_illegal_word :
    seen (step (facing [.cmd 0x07000001#32] (flagged 2#32 State.reset))) (fun t => (t.status, t.rsp)) =
      some (6#32, some 6#32) := by decide

/-- R311. -/
theorem test_reset_abandons_command :
    seen (step (facing [.rstDuring 0x01000000#32] (flagged 7#32 { padded 4 abc abcBlock with h := ⟨0, 0, 0, 0, 0, 0, 0, 0⟩ })))
      (fun t => (t.h, t.len, t.nwords, t.status, t.rsp)) = some (iv, 0, 0, 0#32, none) := by decide

/-! Pure functions, from the tables of 95_test_vectors.md. -/

/-- V3: 55 characters fit one block, 56 need two (R153). -/
theorem test_text_block_boundary :
    (padText (List.replicate 55 0x61#8)).length = 16 ∧ (padText (List.replicate 56 0x61#8)).length = 32 := by decide

/-- V13 g: upper and lower case, an odd count, two words. -/
theorem test_hex_two_words :
    (hexDigits [0x41#8, 0x62#8, 0x43#8, 0x64#8, 0x45#8, 0x66#8, 0x30#8]).map (fun d => (padHex d).take 2) =
      some [0x0abcdef0#32, 0x80000000#32] := by decide

/-- V14: the neighbours of the valid ranges. -/
theorem test_hex_neighbours :
    [0x2f#8, 0x3a#8, 0x40#8, 0x47#8, 0x60#8, 0x67#8, 0x78#8, 0x00#8, 0xe9#8].map hexval = List.replicate 9 none := by
  decide

/-- V15, V16. -/
theorem test_primitives :
    lsig0 0xdeadbeef = 0xabd31b0b#32 ∧ lsig1 0xdeadbeef = 0x689dbfec#32 ∧ usig0 0xdeadbeef = 0xb62e25ac#32 ∧
    usig1 0xdeadbeef = 0x345e14a3#32 ∧ choice 0xdeadbeef 0x12345678 0x9abcdef0 = 0x12345678#32 ∧
    majority 0xdeadbeef 0x12345678 0x9abcdef0 = 0x9abcdef8#32 ∧ rotr 0x12345678 25 = 0x1a2b3c09#32 := by decide

/-- V18, third line. -/
theorem test_round :
    mixRound ⟨1, 2, 3, 4, 5, 6, 7, 8⟩ 9 0xa = ⟨0x54a806a4, 1, 2, 3, 0x14a002a5, 5, 6, 7⟩ := by decide

/-- V17, third line. -/
theorem test_schedule :
    ((expand ((List.range 16).map fun i => BitVec.ofNat 32 (i + 1))).drop 16).take 4 =
      [0x0406e00b#32, 0x060ac00d#32, 0xb406e34a#32, 0x4207e185#32] := by decide +kernel

/-! Witnesses: each shows that the hypotheses of the statement of its name can be met together. -/

theorem witness_DecodeOfEncode : wellFormed (.rds 2#2) = true ∧ wellFormed (.rdw 0xFFFFFF#24) = true := by decide

theorem witness_EncodeOfDecode : decode 0x0B000002#32 = .legal (.rds 2#2) := by decide

theorem witness_DecodeFollowsOpcodeTable :
    (∃ r ∈ opcodeRows, r.accepts 0x0B000002#32 = true ∧ (0x0B000002#32).extractLsb' 0 2 ≠ 3#2) ∧
    (∀ r ∈ opcodeRows, r.accepts 0x0C000000#32 = false) ∧
    (0x0B000003#32 &&& 0xFFFFFFFC#32 = 0x0B000000#32 ∧ (0x0B000003#32).extractLsb' 0 2 = 3#2) := by decide

theorem witness_OpcodeRowsDisjoint : ∃ r ∈ opcodeRows, r.accepts 0x0A000000#32 = true := by decide

theorem witness_IllegalWordClasses :
    (∃ why, decode 0x0C000000#32 = .illegal why) ∧ decode 0x0B000000#32 = .legal (.rds 0) := ⟨⟨_, rfl⟩, by decide⟩

theorem witness_StepRunsDecodedCommand :
    ∃ (s : State) (w : Word) (rest : List HostEvent) (i : Instr),
      s.phase = .idle ∧ s.inputs = .cmd w :: rest ∧ decode w = .legal i :=
  ⟨facing [.cmd 0x01000000#32, .rst] State.reset, 0x01000000#32, [.rst], .clr, rfl, rfl, by decide⟩

theorem witness_IllegalWordRaisesEill :
    ∃ (s : State) (w : Word) (rest : List HostEvent) (why : Illegal),
      s.phase = .idle ∧ s.inputs = .cmd w :: rest ∧ decode w = .illegal why :=
  ⟨facing [.cmd 0x09000008#32] State.reset, 0x09000008#32, [], .rdhArgHigh, rfl, rfl, by decide⟩

theorem witness_IdleEngineWaits : State.reset.phase = .idle ∧ State.reset.inputs = [] := by decide

theorem witness_ResetEventResets :
    (∃ (s : State) (e : HostEvent) (rest : List HostEvent), e = .rst ∧ s.inputs = e :: rest) ∧
    ∃ (s : State) (e : HostEvent) (rest : List HostEvent), (∃ w, e = .rstDuring w) ∧ s.inputs = e :: rest :=
  ⟨⟨facing [.rst] State.reset, .rst, [], rfl, rfl⟩, facing [.rstDuring 0] State.reset, .rstDuring 0, [], ⟨0, rfl⟩, rfl⟩

theorem witness_ResetMeetsInvariant : Config.InRange ⟨1⟩ ∧ Config.InRange ⟨67108855⟩ := by decide

theorem witness_StepKeepsInvariant :
    EngineInv (facing [.cmd 0x04000000#32] (padded 3 abc abcBlock)) ∧
    (∃ t, step (facing [.cmd 0x04000000#32] (padded 3 abc abcBlock)) = .next t) ∧
    EngineInv (facing [.cmd 0x02000000#32] (padded 4 abc abcBlock)) ∧
    ∃ t, step (facing [.cmd 0x02000000#32] (padded 4 abc abcBlock)) = .next t :=
  ⟨by decide, next_of_seen (by decide), by decide, next_of_seen (by decide)⟩

theorem witness_StepAlwaysAnswers : EngineInv (facing [.cmd 0x06000000#32] (padded 3 abc abcBlock)) := by decide

theorem witness_StepKeepsMessageInvariant :
    MessageFromPreprocessor (facing [.cmd 0x00000000#32] (padded 3 abc abcBlock)) ∧
    ∃ t, step (facing [.cmd 0x00000000#32] (padded 3 abc abcBlock)) = .next t :=
  ⟨.inr ⟨abc, by decide, .inl (by decide)⟩, next_of_seen (by decide)⟩

theorem witness_FlagsStaySetUntilClrOrReset :
    ∀ e ∈ [HostEvent.cmd 0x01000000#32, .rst, .rstDuring 0x01000000#32],
      flagSet (flagged 6#32 State.reset).status .eovf = true ∧
      seen (step (facing [e] (flagged 6#32 State.reset))) (fun t => flagSet t.status .eovf) = some false := by decide

theorem witness_StepKeepsParameter : ∃ t, step State.reset = .next t := next_of_seen (by decide)

theorem witness_ResponsesDependOnObservables :
    ∃ s s' t : State, s ≠ s' ∧ readMbuf s 0 ≠ readMbuf s' 0 ∧ ObsEq s s' ∧ step s = .next t :=
  ⟨{ padded 4 abc abcBlock with nwords := 0 }, { padded 4 abc (0 :: abcBlock) with nwords := 0 }, _,
    by decide, by decide, ⟨rfl, rfl, rfl, rfl, by decide, by decide, rfl, rfl, rfl⟩, rfl⟩

theorem witness_ClrStartsNewMessage :
    Instr.init ≠ .clr ∧ (∃ t, exec .init (flagged 4#32 State.reset) = .next t) ∧
    flagSet (flagged 4#32 State.reset).status .eill = true :=
  ⟨by decide, next_of_seen (by decide), by decide⟩

theorem witness_PushAppendsOrOverflows :
    (holding 4 abc).len < (holding 4 abc).cfg.ibufBytes ∧ ¬ (holding 3 abc).len < (holding 3 abc).cfg.ibufBytes := by
  decide

theorem witness_PtxtPadsInput :
    ∀ s ∈ [holding 3 abc, holding 3 []], flagSet s.status .eovf = false ∧ s.len ≤ s.cfg.ibufBytes := by decide

theorem witness_PtxtAfterOverflow : flagSet (flagged 2#32 (padded 3 abc abcBlock)).status .eovf = true := by decide

theorem witness_PhexPadsInput :
    ∀ s ∈ [holding 3 digits61b, holding 3 []], flagSet s.status .eovf = false ∧ s.len ≤ s.cfg.ibufBytes ∧
      ∀ k, k < s.len → (hexval (readIbuf s k)).isSome = true := by decide

theorem witness_PhexAfterOverflow : flagSet (flagged 3#32 (holding 2 digits6g)).status .eovf = true := by decide

theorem witness_PhexInvalidDigit :
    flagSet (holding 2 digits6g).status .eovf = false ∧ (holding 2 digits6g).len ≤ (holding 2 digits6g).cfg.ibufBytes ∧
    1 < (holding 2 digits6g).len ∧ hexval (readIbuf (holding 2 digits6g) 1) = none := by decide

theorem witness_CmprFoldsMessage :
    ∀ s ∈ [State.reset, padded 55 abc abcBlock], s.nwords % 16 = 0 ∧ s.nwords ≤ mbufWords s.cfg := by decide

theorem witness_CmprChains :
    (State.reset.nwords = 0 ∧ ∃ t, exec .cmpr State.reset = .next t) ∧
    ((padded 3 abc abcBlock).nwords = 16 ∧ ∃ t, exec .cmpr (padded 3 abc abcBlock) = .next t) :=
  ⟨⟨rfl, next_of_seen (by decide)⟩, by decide, next_of_seen (by decide)⟩

theorem witness_HtxtDigestsInput :
    ((holding 3 abc).len ≤ (holding 3 abc).cfg.ibufBytes ∧ flagSet (holding 3 abc).status .eovf = false) ∧
    flagSet (flagged 2#32 (holding 3 abc)).status .eovf = true := by decide

theorem witness_HhexDigestsInput :
    (holding 3 digits61b).len ≤ (holding 3 digits61b).cfg.ibufBytes ∧
    flagSet (flagged 2#32 (holding 3 digits61b)).status .eovf = true ∧
    hexval (readIbuf (holding 2 digits6g) 1) = none ∧
    ∀ k, k < (holding 3 digits61b).len → (hexval (readIbuf (holding 3 digits61b) k)).isSome = true := by decide

theorem witness_EntryPointsAreCompositions :
    ∃ s a b c b' c' : State, exec .init s = .next a ∧ (exec .ptxt a = .next b ∧ exec .cmpr b = .next c) ∧
      exec .phex a = .next b' ∧ exec .cmpr b' = .next c' := by
  have good : ∀ i ∈ [Instr.ptxt, .phex], ∃ b c,
      exec i (respondStatus (loadIv (holding 4 digits6g))) = .next b ∧ exec .cmpr b = .next c := by
    intro i hi
    have h : seen (exec i (respondStatus (loadIv (holding 4 digits6g))))
        (fun t => decide (t.nwords % 16 = 0 ∧ t.nwords ≤ mbufWords t.cfg)) = some true := by
      revert i; decide
    obtain ⟨b, hb⟩ := next_of_seen (r := exec i (respondStatus (loadIv (holding 4 digits6g)))) (by revert i; decide)
    rw [hb] at h
    have h' : b.nwords % 16 = 0 ∧ b.nwords ≤ mbufWords b.cfg := of_decide_eq_true (Option.some.inj h)
    exact ⟨b, respondStatus (drawCompression (foldMessage b)), hb, by
      simp only [exec, execCmpr, runCompress, h'.1, h'.2, if_true]; rfl⟩
  obtain ⟨b, c, hb, hc⟩ := good .ptxt (by decide)
  obtain ⟨b', c', hb', hc'⟩ := good .phex (by decide)
  exact ⟨holding 4 digits6g, respondStatus (loadIv (holding 4 digits6g)), b, c, b', c', rfl, ⟨hb, hc⟩, hb', hc'⟩

theorem witness_EntryPointsIgnoreHistory :
    ∃ s s' t t' u u' : State, s.h ≠ s'.h ∧ s.nwords ≠ s'.nwords ∧ inputBytes s = inputBytes s' ∧
      flagSet s.status .eovf = flagSet s'.status .eovf ∧ s.cfg = s'.cfg ∧
      (exec .htxt s = .next t ∧ exec .htxt s' = .next t') ∧ exec .hhex s = .next u ∧ exec .hhex s' = .next u' := by
  obtain ⟨t, ht⟩ := next_of_seen (r := exec .htxt (holding 3 digits61b)) (by decide)
  obtain ⟨t', ht'⟩ := next_of_seen
    (r := exec .htxt { padded 3 digits61b abcBlock with h := ⟨1, 2, 3, 4, 5, 6, 7, 8⟩ }) (by decide)
  obtain ⟨u, hu⟩ := next_of_seen (r := exec .hhex (holding 3 digits61b)) (by decide)
  obtain ⟨u', hu'⟩ := next_of_seen
    (r := exec .hhex { padded 3 digits61b abcBlock with h := ⟨1, 2, 3, 4, 5, 6, 7, 8⟩ }) (by decide)
  exact ⟨_, _, t, t', u, u', by decide, by decide, by decide, by decide, by decide, ⟨ht, ht'⟩, hu, hu'⟩

theorem witness_DigestFromText :
    ∃ (s : State) (rest : List HostEvent), s.phase = .idle ∧ abc.length ≤ s.cfg.ibufBytes ∧
      s.inputs = presented (hashText abc) ++ rest :=
  ⟨facing (presented (hashText abc) ++ [.rst]) (flagged 7#32 (padded 3 digits61b abcBlock)), [.rst], rfl, by decide, rfl⟩

theorem witness_DigestFromHex :
    ∃ (s : State) (d : List Nibble) (rest : List HostEvent), s.phase = .idle ∧
      digits61b.length ≤ s.cfg.ibufBytes ∧ hexDigits digits61b = some d ∧
      s.inputs = presented (hashHex digits61b) ++ rest :=
  ⟨facing (presented (hashHex digits61b)) (flagged 7#32 (padded 3 abc abcBlock)), [6, 1, 11], [], rfl, by decide,
    by decide, by simp [facing]⟩

theorem witness_RdwReturnsMessageWord :
    (padded 3 abc abcBlock).nwords ≤ mbufWords (padded 3 abc abcBlock).cfg ∧
    (15#24).toNat < (padded 3 abc abcBlock).nwords ∧ ¬ (16#24).toNat < (padded 3 abc abcBlock).nwords := by decide

theorem witness_RdsReturnsRegister :
    ∀ sel ∈ [0#2, 1#2, 2#2], wellFormed (.rds sel) = true := by decide

theorem witness_ResponseTable :
    ([0x00000000#32, 0x09000007#32, 0x0A00000F#32, 0x0A000010#32, 0x0B000000#32, 0x0B000002#32, 0x0B000003#32].all
      fun w => (nextOf (runWord w (padded 3 abc abcBlock))).isSome) = true := by decide

theorem witness_WritersOfState :
    (∀ i ∈ [Instr.nop, .clr, .push 1, .init, .ptxt, .phex, .cmpr, .htxt, .hhex, .rdh 7, .rdw 15, .rds 2],
      (nextOf (exec i (padded 4 abc abcBlock))).isSome = true) ∧
    decode 0x0C000000#32 = .illegal .unassignedOp ∧
    (nextOf (runWord 0x0C000000#32 (padded 4 abc abcBlock))).isSome = true := by decide

theorem witness_UnusedHiddenRegistersStay :
    (∀ i ∈ [Instr.ptxt, .phex, .cmpr, .nop], ∃ t, exec i (padded 3 digits61b abcBlock) = .next t) ∧
    ∀ i ∈ [Instr.ptxt, .phex, .htxt, .hhex], runsPreprocessor i = true ∧
      flagSet (flagged 2#32 (holding 3 abc)).status .eovf = true ∧
      ∃ t, exec i (flagged 2#32 (holding 3 abc)) = .next t :=
  ⟨fun i hi => next_of_seen (by revert i; decide),
    fun i hi => ⟨by revert i; decide, by decide, next_of_seen (by revert i; decide)⟩⟩

theorem witness_AtMostOneError :
    seen (exec .phex (holding 2 digits6g)) (fun t => t.status) = some 1#32 ∧
    seen (exec (.push 0) (holding 2 digits6g)) (fun t => t.status) = some 2#32 ∧
    seen (exec (.rdw 0) (holding 2 digits6g)) (fun t => t.status) = some 4#32 ∧
    seen (exec .nop (holding 2 digits6g)) (fun t => t.status) = some 0#32 := by decide

theorem witness_ShiftsAndRotations :
    rotr 1#32 1 = (1#32 >>> 1) ||| (1#32 <<< 31) ∧ rotr 1#32 31 = (1#32 >>> 31) ||| (1#32 <<< 1) := by decide

theorem witness_SigmasBitByBit : 31 < 32 ∧ (lsig0 0x80000000#32).getLsbD 28 = true := by decide

theorem witness_ChoiceAndMajorityBitByBit : 31 < 32 ∧ (choice 0x80000000#32 0 0x80000000#32).getLsbD 31 = false := by
  decide

theorem witness_TablesAreRootsOfPrimes : (primesBelow 312).length = 64 ∧ (primesBelow 312).getD 63 0 = 311 := by
  decide +kernel

theorem witness_TextPaddingShape : abc.length < 2 ^ 61 ∧ abcBlock = padText abc ∧ 3 < 4 * (abcBlock.length - 2) :=
  ⟨by norm_num [abc], by decide, by decide⟩

theorem witness_ScheduleRecurrence : abcBlock.length = 16 ∧ 15 < 16 ∧ 16 ≤ 63 ∧ 63 < 64 := by decide

theorem witness_RoundFormula :
    ∃ t1 t2 : Word, t1 = 8#32 + usig1 5#32 + choice 5#32 6#32 7#32 + 9#32 + 0xa#32 ∧
      t2 = usig0 1#32 + majority 1#32 2#32 3#32 ∧ t1 = 0x14a002a1#32 ∧ t2 = 0x40080403#32 :=
  ⟨_, _, rfl, rfl, by decide, by decide⟩

theorem witness_CompressAllChains : abcBlock.length = 16 ∧ (abcBlock ++ abcBlock).length % 16 = 0 := by decide

end Sys2Proof.Tests
end

/-! The step by what is on the port (00_scope.md R14, 45_host_commands.md R240, 70_reset_and_hazards.md R310). -/
namespace Sys2Proof.Machine

/-- The events by which the host asserts `rst` (R310, R311). -/
def HostEvent.IsReset (e : HostEvent) : Prop := e = .rst ∨ ∃ w, e = .rstDuring w

theorem runWord_legal {w : Word} {i : Instr} (h : decode w = .legal i) (s : State) : runWord w s = exec i s := by
  simp only [runWord, h]

theorem runWord_illegal {w : Word} {why : Illegal} (h : decode w = .illegal why) (s : State) :
    runWord w s = .next (execIllegal s) := by
  simp only [runWord, h]

theorem step_reset {s : State} {e : HostEvent} {rest : List HostEvent} (he : e.IsReset) (h : s.inputs = e :: rest) :
    step s = .next (resetEvent (takeEvent s rest)) := by
  rcases he with rfl | ⟨w, rfl⟩ <;> simp only [step, h]

theorem step_cmd {s : State} {w : Word} {rest : List HostEvent} (hp : s.phase = .idle)
    (h : s.inputs = .cmd w :: rest) : step s = runWord w (takeEvent s rest) := by
  simp [step, h, State.cmdReady, hp]

theorem step_idle {s : State} (hp : s.phase = .idle) (h : s.inputs = []) : step s = .next (idleStep s) := by
  simp [step, h, State.cmdReady, hp]

/-- A step that is not a reset is refused in the middle of a command (log entry 9). -/
theorem step_busy {s : State} (hp : s.phase ≠ .idle) (h : ∀ e rest, s.inputs = e :: rest → ¬ e.IsReset) :
    step s = .refused .midCommand := by
  match hi : s.inputs with
  | [] => simp [step, hi, State.cmdReady, hp]
  | .cmd w :: rest => simp [step, hi, State.cmdReady, hp]
  | .rst :: rest => exact absurd (.inl rfl) (h _ _ hi)
  | .rstDuring w :: rest => exact absurd (.inr ⟨w, rfl⟩) (h _ _ hi)

/-- What the port can hold: nothing, a command word, or a reset event in front. -/
theorem inputs_cases (es : List HostEvent) :
    es = [] ∨ (∃ w rest, es = .cmd w :: rest) ∨ ∃ e rest, HostEvent.IsReset e ∧ es = e :: rest := by
  match es with
  | [] => exact .inl rfl
  | .cmd w :: rest => exact .inr (.inl ⟨w, rest, rfl⟩)
  | .rst :: rest => exact .inr (.inr ⟨_, rest, .inl rfl, rfl⟩)
  | .rstDuring w :: rest => exact .inr (.inr ⟨_, rest, .inr ⟨w, rfl⟩, rfl⟩)

/-- What executing a word can do (R240, R283). -/
theorem runWord_next {w : Word} {s t : State} (h : runWord w s = .next t) :
    (∃ i, decode w = .legal i ∧ exec i s = .next t) ∨ (∃ why, decode w = .illegal why ∧ t = execIllegal s) := by
  cases hd : decode w with
  | legal i => exact .inl ⟨i, rfl, runWord_legal hd s ▸ h⟩
  | illegal why =>
    rw [runWord_illegal hd] at h
    exact .inr ⟨why, rfl, by simpa using h.symm⟩

/-- What a step that answers can do. -/
theorem step_next {s t : State} (h : step s = .next t) :
    (s.phase = .idle ∧ s.inputs = [] ∧ t = idleStep s) ∨
    (∃ w rest, s.phase = .idle ∧ s.inputs = .cmd w :: rest ∧ runWord w (takeEvent s rest) = .next t) ∨
    (∃ e rest, HostEvent.IsReset e ∧ s.inputs = e :: rest ∧ t = resetEvent (takeEvent s rest)) := by
  rcases inputs_cases s.inputs with hi | ⟨w, rest, hi⟩ | ⟨e, rest, he, hi⟩
  · by_cases hp : s.phase = .idle
    · rw [step_idle hp hi] at h
      exact .inl ⟨hp, hi, by simpa using h.symm⟩
    · simp [step_busy hp (by simp [hi])] at h
  · by_cases hp : s.phase = .idle
    · exact .inr (.inl ⟨w, rest, hp, hi, step_cmd hp hi ▸ h⟩)
    · simp [step_busy hp (by simp [hi, HostEvent.IsReset])] at h
  · rw [step_reset he hi] at h
    exact .inr (.inr ⟨e, rest, he, hi, by simpa using h.symm⟩)

end Sys2Proof.Machine

/-! What the shared operations answer in each case, and that their messages fit the buffer (20_memory.md R60, R65). -/
namespace Sys2Proof.Machine

theorem padText_length_mod (u : List Byte) : (padText u).length % 16 = 0 := finishPadding_whole_blocks _ _

theorem padHex_length_mod (d : List Nibble) : (padHex d).length % 16 = 0 := finishPadding_whole_blocks _ _

/-- The padded message of an input that fits in `IBUF` fits in `MBUF` (R10, R60). -/
theorem padText_fits {c : Config} {u : List Byte} (h : u.length ≤ c.ibufBytes) :
    (padText u).length ≤ mbufWords c := by
  simp only [padText, finishPadding_length, packBytes_length, List.length_append, List.length_singleton,
    ceilDiv, zeroCount, mbufWords]
  omega

theorem padHex_fits {c : Config} {d : List Nibble} (h : d.length ≤ c.ibufBytes) :
    (padHex d).length ≤ mbufWords c := by
  simp only [padHex, finishPadding_length, packNibbles_length, evenDigits_length, List.length_append,
    List.length_singleton, ceilDiv, zeroCount, mbufWords]
  omega

section
variable {s : State}

theorem runPadText_overflowed (h : flagSet s.status .eovf = true) : runPadText s = .next (dropMessage s) := by
  simp only [runPadText, h, if_true]

theorem runPadText_stores (h : flagSet s.status .eovf = false) (hl : s.len ≤ s.cfg.ibufBytes) :
    runPadText s = .next (drawScratch (storeMessage s (padText (inputBytes s)))) := by
  simp only [runPadText, h, Bool.false_eq_true, if_false, if_pos hl]
  exact putMessage_fits (padText_fits (by simpa using hl))

theorem runPadHex_overflowed (h : flagSet s.status .eovf = true) : runPadHex s = .next (dropMessage s) := by
  simp only [runPadHex, h, if_true]

theorem runPadHex_stores (h : flagSet s.status .eovf = false) (hl : s.len ≤ s.cfg.ibufBytes) {d : List Nibble}
    (hd : hexDigits (inputBytes s) = some d) :
    runPadHex s = .next (drawScratch (storeMessage s (padHex d))) := by
  simp only [runPadHex, h, Bool.false_eq_true, if_false, if_pos hl, hd]
  exact putMessage_fits (padHex_fits (by simpa [hexDigits_length hd] using hl))

theorem runPadHex_invalid (h : flagSet s.status .eovf = false) (hl : s.len ≤ s.cfg.ibufBytes)
    (hd : hexDigits (inputBytes s) = none) :
    runPadHex s = .next (drawScratch (dropMessage (raise .ehex s))) := by
  simp only [runPadHex, h, Bool.false_eq_true, if_false, if_pos hl, hd]

end

/-- `PUSH` with room in the buffer appends the byte to the input (R246). -/
theorem inputBytes_pushByte {s : State} (hroom : s.len < s.cfg.ibufBytes) (b : Byte) :
    inputBytes (pushByte s b) = inputBytes s ++ [b] := by
  have hlow : (List.range s.len).map (readIbuf (writeIbuf s s.len b)) = inputBytes s :=
    List.map_congr_left fun k hk => readIbuf_writeIbuf_of_ne s b (List.mem_range.1 hk).ne
  have htop : readIbuf (writeIbuf s s.len b) s.len = b := readIbuf_writeIbuf_self s s.len b
  calc inputBytes (pushByte s b)
      = (List.range (s.len + 1)).map (readIbuf (writeIbuf s s.len b)) := by rw [pushByte, if_pos hroom]; rfl
    _ = inputBytes s ++ [b] := by simp [List.range_succ, hlow, htop]

/-- The message is a number of whole blocks within its buffer (R41). -/
def MessageFits (s : State) : Prop := s.nwords % 16 = 0 ∧ s.nwords ≤ mbufWords s.cfg

theorem dropMessage_messageFits (s : State) : MessageFits (dropMessage s) := by simp [MessageFits]

theorem runPadText_answers {s : State} (hl : s.len ≤ s.cfg.ibufBytes) :
    ∃ t, runPadText s = .next t ∧ MessageFits t := by
  cases ho : flagSet s.status .eovf with
  | true => exact ⟨_, runPadText_overflowed ho, dropMessage_messageFits s⟩
  | false => exact ⟨_, runPadText_stores ho hl, padText_length_mod _, padText_fits (by simpa using hl)⟩

theorem runPadHex_answers {s : State} (hl : s.len ≤ s.cfg.ibufBytes) :
    ∃ t, runPadHex s = .next t ∧ MessageFits t := by
  cases ho : flagSet s.status .eovf with
  | true => exact ⟨_, runPadHex_overflowed ho, dropMessage_messageFits s⟩
  | false =>
    cases hd : hexDigits (inputBytes s) with
    | none => exact ⟨_, runPadHex_invalid ho hl hd, dropMessage_messageFits _⟩
    | some d =>
      exact ⟨_, runPadHex_stores ho hl hd, padHex_length_mod d,
        padHex_fits (by simpa [hexDigits_length hd] using hl)⟩

theorem runCompress_answers {s : State} (h : MessageFits s) : ∃ t, runCompress s = .next t :=
  ⟨_, runCompress_fits h.1 h.2⟩

theorem execRdw_answers (j : BitVec 24) {s : State} (h : s.nwords ≤ mbufWords s.cfg) :
    ∃ t, execRdw j s = .next t := by
  unfold execRdw
  split
  · exact ⟨_, if_pos (by omega)⟩
  · exact ⟨_, rfl⟩

theorem execRds_answers (sel : BitVec 2) (s : State) : ∃ t, execRds sel s = .next t := by
  unfold execRds
  split <;> exact ⟨_, rfl⟩

/-- Every command answers when the input and the message are within their buffers (R65). -/
theorem exec_answers (i : Instr) {s : State} (hl : s.len ≤ s.cfg.ibufBytes) (hm : MessageFits s) :
    ∃ t, exec i s = .next t := by
  cases i with
  | nop | clr | push | init | rdh => exact ⟨_, rfl⟩
  | ptxt =>
    obtain ⟨t, ht, -⟩ := runPadText_answers hl
    exact ⟨_, andThen_eq_next.2 ⟨t, ht, rfl⟩⟩
  | phex =>
    obtain ⟨t, ht, -⟩ := runPadHex_answers hl
    exact ⟨_, andThen_eq_next.2 ⟨t, ht, rfl⟩⟩
  | cmpr =>
    obtain ⟨t, ht⟩ := runCompress_answers hm
    exact ⟨_, andThen_eq_next.2 ⟨t, ht, rfl⟩⟩
  | htxt =>
    obtain ⟨t, ht, hf⟩ := runPadText_answers (s := loadIv s) hl
    obtain ⟨u, hu⟩ := runCompress_answers hf
    exact ⟨_, andThen_eq_next.2 ⟨u, andThen_eq_next.2 ⟨t, ht, hu⟩, rfl⟩⟩
  | hhex =>
    obtain ⟨t, ht, hf⟩ := runPadHex_answers (s := loadIv s) hl
    obtain ⟨u, hu⟩ := runCompress_answers hf
    exact ⟨_, andThen_eq_next.2 ⟨u, andThen_eq_next.2 ⟨t, ht, hu⟩, rfl⟩⟩
  | rdw j => exact execRdw_answers j hm.2
  | rds sel => exact execRds_answers sel s

/-- Settles O15: the invariant keeps the input and the message within their buffers and the engine idle. -/
theorem stepAlwaysAnswers : Obligations.StepAlwaysAnswers := by
  rintro s ⟨-, hlen, hnw, hmod, -, -, -, -, -, hidle⟩
  rcases inputs_cases s.inputs with hi | ⟨w, rest, hi⟩ | ⟨e, rest, he, hi⟩
  · exact ⟨_, step_idle hidle hi⟩
  · rw [step_cmd hidle hi]
    cases hd : decode w with
    | legal i => exact runWord_legal hd _ ▸ exec_answers i hlen ⟨hmod, hnw⟩
    | illegal why => exact ⟨_, runWord_illegal hd _⟩
  · exact ⟨_, step_reset he hi⟩

end Sys2Proof.Machine

/-! What no command changes: the parameter and the host's pending events (00_scope.md R15). -/
namespace Sys2Proof.Machine

theorem SameOutside.trans {s t u : State} (h : SameOutside s t) (h' : SameOutside t u) : SameOutside s u :=
  ⟨h'.1.trans h.1, h'.2.trans h.2⟩

theorem putMessage_sameOutside {s t : State} {m : List Word} (h : putMessage s m = .next t) : SameOutside s t := by
  obtain ⟨-, rfl⟩ := putMessage_next h
  exact ⟨rfl, rfl⟩

theorem runPadText_sameOutside {s t : State} (h : runPadText s = .next t) : SameOutside s t := by
  rcases runPadText_next h with ⟨-, rfl⟩ | ⟨-, -, hp⟩
  · exact ⟨rfl, rfl⟩
  · exact putMessage_sameOutside hp

theorem runPadHex_sameOutside {s t : State} (h : runPadHex s = .next t) : SameOutside s t := by
  rcases runPadHex_next h with ⟨-, rfl⟩ | ⟨-, -, ⟨d, -, hp⟩ | ⟨-, rfl⟩⟩
  · exact ⟨rfl, rfl⟩
  · exact putMessage_sameOutside hp
  · exact ⟨rfl, rfl⟩

theorem runCompress_sameOutside {s t : State} (h : runCompress s = .next t) : SameOutside s t := by
  obtain ⟨-, -, rfl⟩ := runCompress_next h
  exact ⟨rfl, rfl⟩

theorem finish_sameOutside {s t : State} (h : finish s = .next t) : SameOutside s t := by
  cases h
  exact ⟨rfl, rfl⟩

/-- A sequence leaves the outside alone when both parts do. -/
theorem andThen_sameOutside {s t : State} {r : Result} {f : State → Result}
    (hr : ∀ u, r = .next u → SameOutside s u) (hf : ∀ u v, f u = .next v → SameOutside u v)
    (h : andThen r f = .next t) : SameOutside s t := by
  obtain ⟨u, hu, ht⟩ := andThen_eq_next.1 h
  exact (hr u hu).trans (hf u t ht)

theorem pushByte_sameOutside (s : State) (b : Byte) : SameOutside s (pushByte s b) := by
  unfold pushByte
  split <;> exact ⟨rfl, rfl⟩

theorem execRdw_sameOutside {j : BitVec 24} {s t : State} (h : execRdw j s = .next t) : SameOutside s t := by
  unfold execRdw at h
  split at h
  · split at h <;> cases h
    exact ⟨rfl, rfl⟩
  · cases h
    exact ⟨rfl, rfl⟩

theorem execRds_sameOutside {sel : BitVec 2} {s t : State} (h : execRds sel s = .next t) : SameOutside s t := by
  unfold execRds at h
  split at h <;> cases h <;> exact ⟨rfl, rfl⟩

theorem exec_sameOutside {i : Instr} {s t : State} (h : exec i s = .next t) : SameOutside s t := by
  cases i with
  | nop | clr | init | rdh => cases h; exact ⟨rfl, rfl⟩
  | push b => exact (pushByte_sameOutside s b).trans (finish_sameOutside h)
  | ptxt => exact andThen_sameOutside (fun _ => runPadText_sameOutside) (fun _ _ => finish_sameOutside) h
  | phex => exact andThen_sameOutside (fun _ => runPadHex_sameOutside) (fun _ _ => finish_sameOutside) h
  | cmpr => exact andThen_sameOutside (fun _ => runCompress_sameOutside) (fun _ _ => finish_sameOutside) h
  | htxt =>
    exact andThen_sameOutside (s := loadIv s)
      (fun _ => andThen_sameOutside (fun _ => runPadText_sameOutside) fun _ _ => runCompress_sameOutside)
      (fun _ _ => finish_sameOutside) h
  | hhex =>
    exact andThen_sameOutside (s := loadIv s)
      (fun _ => andThen_sameOutside (fun _ => runPadHex_sameOutside) fun _ _ => runCompress_sameOutside)
      (fun _ _ => finish_sameOutside) h
  | rdw j => exact execRdw_sameOutside h
  | rds sel => exact execRds_sameOutside h

theorem runWord_sameOutside {w : Word} {s t : State} (h : runWord w s = .next t) : SameOutside s t := by
  rcases runWord_next h with ⟨i, -, hx⟩ | ⟨why, -, rfl⟩
  · exact exec_sameOutside hx
  · exact ⟨rfl, rfl⟩

/-- Settles O18: a word leaves the parameter alone by `runWord_sameOutside`, and so do waiting and reset. -/
theorem stepKeepsParameter : Obligations.StepKeepsParameter := by
  intro s t h
  rcases step_next h with ⟨-, -, rfl⟩ | ⟨w, rest, -, -, hw⟩ | ⟨e, rest, -, -, rfl⟩
  · rfl
  · exact (runWord_sameOutside hw).1
  · rfl

end Sys2Proof.Machine

/-! Observational equality (00_scope.md R17, 10_state.md R39) is kept by every operation, command and step. -/
namespace Sys2Proof.Machine

/-- Two outcomes that stop for the same reason or go on to related states. -/
inductive OutcomeRel (R : State → State → Prop) : Result → Result → Prop where
  | next {t t' : State} (h : R t t') : OutcomeRel R (.next t) (.next t')
  | fault (x : Fault) : OutcomeRel R (.fault x) (.fault x)
  | refused (x : Refusal) : OutcomeRel R (.refused x) (.refused x)

/-- Observationally equal states with the same response on the port. -/
def AnswersAlike (s t : State) : Prop := ObsEq s t ∧ s.rsp = t.rsp

theorem OutcomeRel.andThen {R Q : State → State → Prop} {r r' : Result} {f : State → Result}
    (hr : OutcomeRel R r r') (hf : ∀ {t t' : State}, R t t' → OutcomeRel Q (f t) (f t')) :
    OutcomeRel Q (andThen r f) (andThen r' f) := by
  cases hr with
  | next h => exact hf h
  | fault x => exact .fault x
  | refused x => exact .refused x

theorem OutcomeRel.exists_next {R : State → State → Prop} {r r' : Result} {t : State} (h : OutcomeRel R r r')
    (ht : r = .next t) : ∃ t', r' = .next t' ∧ R t t' := by
  subst ht
  cases h with
  | next h => exact ⟨_, rfl, h⟩

section
variable {s s' : State}

theorem ObsEq.raise (h : ObsEq s s') (e : ErrFlag) : ObsEq (raise e s) (raise e s') := by
  obtain ⟨hh, hlen, hnw, hst, hin, hmsg, hcfg, hev, hph⟩ := h
  exact ⟨hh, hlen, hnw, congrArg (setFlag · e) hst, hin, hmsg, hcfg, hev, hph⟩

theorem ObsEq.loadIv (h : ObsEq s s') : ObsEq (loadIv s) (loadIv s') := by
  obtain ⟨-, hrest⟩ := h
  exact ⟨rfl, hrest⟩

theorem ObsEq.drawScratch (h : ObsEq s s') : ObsEq (drawScratch s) (drawScratch s') := h

theorem ObsEq.drawCompression (h : ObsEq s s') : ObsEq (drawCompression s) (drawCompression s') := h

theorem ObsEq.idleStep (h : ObsEq s s') : AnswersAlike (idleStep s) (idleStep s') := ⟨h, rfl⟩

theorem ObsEq.respond (h : ObsEq s s') {v v' : Word} (hv : v = v') : AnswersAlike (respond s v) (respond s' v') :=
  ⟨h, congrArg some hv⟩

theorem ObsEq.respondStatus (h : ObsEq s s') : AnswersAlike (respondStatus s) (respondStatus s') := by
  have ⟨_, _, _, hst, _⟩ := h
  exact h.respond hst

theorem ObsEq.finish (h : ObsEq s s') : OutcomeRel AnswersAlike (finish s) (finish s') := .next h.respondStatus

theorem ObsEq.execIllegal (h : ObsEq s s') : AnswersAlike (execIllegal s) (execIllegal s') :=
  (h.raise .eill).respondStatus

theorem ObsEq.takeEvent (h : ObsEq s s') (rest : List HostEvent) : ObsEq (takeEvent s rest) (takeEvent s' rest) := by
  obtain ⟨hh, hlen, hnw, hst, hin, hmsg, hcfg, -, hph⟩ := h
  exact ⟨hh, hlen, hnw, hst, hin, hmsg, hcfg, rfl, hph⟩

/-- Reset leaves no input and no message, so the two unknown contents are not observed. -/
theorem ObsEq.resetEvent (h : ObsEq s s') : AnswersAlike (resetEvent s) (resetEvent s') := by
  obtain ⟨-, -, -, -, -, -, hcfg, hev, -⟩ := h
  exact ⟨⟨rfl, rfl, rfl, rfl, rfl, rfl, hcfg, hev, rfl⟩, rfl⟩

theorem ObsEq.dropMessage (h : ObsEq s s') : ObsEq (dropMessage s) (dropMessage s') := by
  obtain ⟨hh, hlen, -, hst, hin, -, hcfg, hev, hph⟩ := h
  exact ⟨hh, hlen, rfl, hst, hin, rfl, hcfg, hev, hph⟩

theorem ObsEq.storeMessage (h : ObsEq s s') (m : List Word) : ObsEq (storeMessage s m) (storeMessage s' m) := by
  obtain ⟨hh, hlen, -, hst, hin, -, hcfg, hev, hph⟩ := h
  have hmsg : messageWords (Machine.storeMessage s m) = messageWords (Machine.storeMessage s' m) := by
    rw [messageWords_stored, messageWords_stored]
  exact ⟨hh, hlen, rfl, hst, hin, hmsg, hcfg, hev, hph⟩

theorem ObsEq.foldMessage (h : ObsEq s s') : ObsEq (foldMessage s) (foldMessage s') := by
  obtain ⟨hh, hlen, hnw, hst, hin, hmsg, hcfg, hev, hph⟩ := h
  exact ⟨congrArg₂ compressAll hh hmsg, hlen, hnw, hst, hin, hmsg, hcfg, hev, hph⟩

/-- A message word is observed, so it reads the same. -/
theorem ObsEq.readMbuf_eq (h : ObsEq s s') {j : Nat} (hj : j < s.nwords) : readMbuf s j = readMbuf s' j := by
  obtain ⟨-, -, hnw, -, -, hmsg, -⟩ := h
  simpa [messageWords, hj, ← hnw] using congrArg (·[j]?) hmsg

theorem ObsEq.putMessage (h : ObsEq s s') (m : List Word) :
    OutcomeRel ObsEq (putMessage s m) (putMessage s' m) := by
  have ⟨_, _, _, _, _, _, hcfg, _⟩ := h
  unfold Machine.putMessage
  rw [hcfg]
  split
  · exact .next (h.storeMessage m).drawScratch
  · exact .fault _

theorem ObsEq.runPadText (h : ObsEq s s') : OutcomeRel ObsEq (runPadText s) (runPadText s') := by
  have ⟨_, hlen, _, hst, hin, _, hcfg, _⟩ := h
  unfold Machine.runPadText
  rw [hst, hlen, hcfg, hin]
  split
  · exact .next h.dropMessage
  · split
    · exact h.putMessage _
    · exact .fault _

theorem ObsEq.runPadHex (h : ObsEq s s') : OutcomeRel ObsEq (runPadHex s) (runPadHex s') := by
  have ⟨_, hlen, _, hst, hin, _, hcfg, _⟩ := h
  unfold Machine.runPadHex
  rw [hst, hlen, hcfg, hin]
  split
  · exact .next h.dropMessage
  · split
    · split
      · exact h.putMessage _
      · exact .next (h.raise .ehex).dropMessage.drawScratch
    · exact .fault _

theorem ObsEq.runCompress (h : ObsEq s s') : OutcomeRel ObsEq (runCompress s) (runCompress s') := by
  have ⟨_, _, hnw, _, _, _, hcfg, _⟩ := h
  unfold Machine.runCompress
  rw [hnw, hcfg]
  split
  · split
    · exact .next h.foldMessage.drawCompression
    · exact .fault _
  · exact .refused _

theorem ObsEq.clr (h : ObsEq s s') :
    ObsEq (clearErrors { s with len := 0, nwords := 0 }) (clearErrors { s' with len := 0, nwords := 0 }) := by
  obtain ⟨hh, -, -, -, -, -, hcfg, hev, hph⟩ := h
  exact ⟨hh, rfl, rfl, rfl, rfl, rfl, hcfg, hev, hph⟩

theorem ObsEq.pushByte (h : ObsEq s s') (b : Byte) : ObsEq (pushByte s b) (pushByte s' b) := by
  have ⟨hh, hlen, hnw, hst, hin, hmsg, hcfg, hev, hph⟩ := h
  by_cases hroom : s.len < s.cfg.ibufBytes
  · have hroom' : s'.len < s'.cfg.ibufBytes := hlen ▸ hcfg ▸ hroom
    have hin' : inputBytes (Machine.pushByte s b) = inputBytes (Machine.pushByte s' b) := by
      rw [inputBytes_pushByte hroom, inputBytes_pushByte hroom', hin]
    rw [Machine.pushByte, Machine.pushByte, if_pos hroom, if_pos hroom'] at hin' ⊢
    exact ⟨hh, congrArg (· + 1) hlen, hnw, hst, hin', hmsg, hcfg, hev, hph⟩
  · rw [Machine.pushByte, Machine.pushByte, if_neg hroom, if_neg (hlen ▸ hcfg ▸ hroom)]
    exact h.raise .eovf

theorem ObsEq.execRdh (h : ObsEq s s') (i : BitVec 3) : OutcomeRel AnswersAlike (execRdh i s) (execRdh i s') := by
  have ⟨hh, _⟩ := h
  exact .next (h.respond (congrArg (wordAt · _) hh))

theorem ObsEq.execRdw (h : ObsEq s s') (j : BitVec 24) : OutcomeRel AnswersAlike (execRdw j s) (execRdw j s') := by
  have ⟨_, _, hnw, _, _, _, hcfg, _⟩ := h
  unfold Machine.execRdw
  rw [← hnw, ← hcfg]
  split
  · split
    · exact .next (h.respond (h.readMbuf_eq ‹_›))
    · exact .fault _
  · exact (h.raise .eill).finish

theorem ObsEq.execRds (h : ObsEq s s') (sel : BitVec 2) :
    OutcomeRel AnswersAlike (execRds sel s) (execRds sel s') := by
  have ⟨_, hlen, hnw, hst, _⟩ := h
  unfold Machine.execRds
  split
  · exact .next (h.respond hst)
  · exact .next (h.respond (congrArg zext32 hlen))
  · exact .next (h.respond (congrArg zext32 hnw))
  · exact .next h.execIllegal

theorem ObsEq.exec (h : ObsEq s s') (i : Instr) : OutcomeRel AnswersAlike (exec i s) (exec i s') := by
  cases i with
  | nop => exact h.finish
  | clr => exact h.clr.finish
  | push b => exact (h.pushByte b).finish
  | init => exact h.loadIv.finish
  | ptxt => exact h.runPadText.andThen ObsEq.finish
  | phex => exact h.runPadHex.andThen ObsEq.finish
  | cmpr => exact h.runCompress.andThen ObsEq.finish
  | htxt => exact (h.loadIv.runPadText.andThen ObsEq.runCompress).andThen ObsEq.finish
  | hhex => exact (h.loadIv.runPadHex.andThen ObsEq.runCompress).andThen ObsEq.finish
  | rdh i => exact h.execRdh i
  | rdw j => exact h.execRdw j
  | rds sel => exact h.execRds sel

theorem ObsEq.runWord (h : ObsEq s s') (w : Word) : OutcomeRel AnswersAlike (runWord w s) (runWord w s') := by
  cases hd : decode w with
  | legal i => rw [runWord_legal hd, runWord_legal hd]; exact h.exec i
  | illegal why => rw [runWord_illegal hd, runWord_illegal hd]; exact .next h.execIllegal

theorem ObsEq.step (h : ObsEq s s') : OutcomeRel AnswersAlike (step s) (step s') := by
  have ⟨_, _, _, _, _, _, _, hev, hph⟩ := h
  rcases inputs_cases s.inputs with hi | ⟨w, rest, hi⟩ | ⟨e, rest, he, hi⟩
  · by_cases hp : s.phase = .idle
    · rw [step_idle hp hi, step_idle (hph ▸ hp) (hev ▸ hi)]
      exact .next h.idleStep
    · rw [step_busy hp (by simp [hi]), step_busy (hph ▸ hp) (by simp [← hev, hi])]
      exact .refused _
  · by_cases hp : s.phase = .idle
    · rw [step_cmd hp hi, step_cmd (hph ▸ hp) (hev ▸ hi)]
      exact (h.takeEvent rest).runWord w
    · rw [step_busy hp (by simp [hi, HostEvent.IsReset]),
        step_busy (hph ▸ hp) (by simp [← hev, hi, HostEvent.IsReset])]
      exact .refused _
  · rw [step_reset he hi, step_reset he (hev ▸ hi)]
    exact .next (h.takeEvent rest).resetEvent

theorem ObsEq.responses (h : ObsEq s s') (n : Nat) : responses n s = responses n s' := by
  induction n generalizing s s' with
  | zero => rfl
  | succ n ih =>
    have hstep := h.step
    simp only [Machine.responses]
    generalize Machine.step s = r, Machine.step s' = r' at hstep
    cases hstep with
    | next ht =>
    obtain ⟨hobs, hrsp⟩ := ht
    simp only [ih hobs, hrsp]
    | fault x => rfl
    | refused x => rfl

end

/-- Settles O19: one step keeps observational equality and the response (`ObsEq.step`); induction on the number of
steps gives the response sequences (`ObsEq.responses`). -/
theorem responsesDependOnObservables : Obligations.ResponsesDependOnObservables :=
  fun _ _ h => ⟨fun _ ht => h.step.exists_next ht, h.responses⟩

end Sys2Proof.Machine

/-! The single updates of the state that a command is made of, each with the commands that may perform it
(10_state.md R22, R25, R26, R33, R34). What every update keeps, every command keeps. -/
namespace Sys2Proof.Machine

/-- The words are a preprocessor's result on the byte string (41_text_preprocessor.md R155, 42_hex_preprocessor.md
R178). -/
def IsPadding (u : List Byte) (m : List Word) : Prop := m = padText u ∨ ∃ d, hexDigits u = some d ∧ m = padHex d

/-- One update of the state in the course of the command `i`. -/
inductive Update (i : Instr) : State → State → Prop where
  | respond {s : State} (v : Word) : Update i s (respond s v)
  | raise {s : State} (e : ErrFlag) : Update i s (raise e s)
  | clear {s : State} (hi : i = .clr) : Update i s (clearErrors { s with len := 0, nwords := 0 })
  | append {s : State} {b : Byte} (hi : i = .push b) (hroom : s.len < s.cfg.ibufBytes) :
      Update i s { writeIbuf s s.len b with len := s.len + 1 }
  | loadIv {s : State} (hi : writesHash i = true) : Update i s (loadIv s)
  | dropMessage {s : State} (hi : runsPreprocessor i = true) : Update i s (dropMessage s)
  | storeMessage {s : State} {m : List Word} (hi : runsPreprocessor i = true) (hlen : s.len ≤ s.cfg.ibufBytes)
      (hm : IsPadding (inputBytes s) m) (hfit : m.length ≤ mbufWords s.cfg) : Update i s (storeMessage s m)
  | drawScratch {s : State} (hi : runsPreprocessor i = true) : Update i s (drawScratch s)
  | compress {s : State} (hi : writesHash i = true) (hu : usesHidden i = true) :
      Update i s (drawCompression (foldMessage s))

/-- Any number of updates in the course of the command `i`. -/
abbrev Updates (i : Instr) : State → State → Prop := Relation.ReflTransGen (Update i)

/-- What every update of a command keeps, all of its updates together keep. -/
theorem Updates.keep {i : Instr} {P : State → Prop} (hP : ∀ s t, Update i s t → P s → P t) {s t : State}
    (h : Updates i s t) (hs : P s) : P t := by
  induction h with
  | refl => exact hs
  | tail _ hu ih => exact hP _ _ hu ih

theorem finish_updates {i : Instr} {s t : State} (h : finish s = .next t) : Updates i s t := by
  cases h
  exact .single (.respond _)

theorem andThen_updates {i : Instr} {s t : State} {r : Result} {f : State → Result}
    (hr : ∀ u, r = .next u → Updates i s u) (hf : ∀ u v, f u = .next v → Updates i u v)
    (h : andThen r f = .next t) : Updates i s t := by
  obtain ⟨u, hu, ht⟩ := andThen_eq_next.1 h
  exact (hr u hu).trans (hf u t ht)

theorem execIllegal_updates (i : Instr) (s : State) : Updates i s (execIllegal s) :=
  .tail (.single (.raise .eill)) (.respond _)

theorem pushByte_updates (s : State) (b : Byte) : Updates (.push b) s (pushByte s b) := by
  unfold pushByte
  split
  · exact .single (.append rfl ‹_›)
  · exact .single (.raise .eovf)

theorem execRdw_updates {j : BitVec 24} {i : Instr} {s t : State} (h : execRdw j s = .next t) : Updates i s t := by
  unfold execRdw at h
  split at h
  · split at h <;> cases h
    exact .single (.respond _)
  · cases h
    exact execIllegal_updates i s

theorem execRds_updates {sel : BitVec 2} {i : Instr} {s t : State} (h : execRds sel s = .next t) :
    Updates i s t := by
  unfold execRds at h
  split at h <;> cases h
  case h_4 => exact execIllegal_updates i s
  all_goals exact .single (.respond _)

section
variable {i : Instr} {s t : State}

theorem putMessage_updates (hi : runsPreprocessor i = true) (hlen : s.len ≤ s.cfg.ibufBytes) {m : List Word}
    (hm : IsPadding (inputBytes s) m) (h : putMessage s m = .next t) : Updates i s t := by
  obtain ⟨hfit, rfl⟩ := putMessage_next h
  exact .tail (.single (.storeMessage hi hlen hm hfit)) (.drawScratch hi)

theorem runPadText_updates (hi : runsPreprocessor i = true) (h : runPadText s = .next t) : Updates i s t := by
  rcases runPadText_next h with ⟨-, rfl⟩ | ⟨-, hlen, hput⟩
  · exact .single (.dropMessage hi)
  · exact putMessage_updates hi hlen (.inl rfl) hput

theorem runPadHex_updates (hi : runsPreprocessor i = true) (h : runPadHex s = .next t) : Updates i s t := by
  rcases runPadHex_next h with ⟨-, rfl⟩ | ⟨-, hlen, ⟨d, hd, hput⟩ | ⟨-, rfl⟩⟩
  · exact .single (.dropMessage hi)
  · exact putMessage_updates hi hlen (.inr ⟨d, hd, rfl⟩) hput
  · exact .tail (.tail (.single (.raise .ehex)) (.dropMessage hi)) (.drawScratch hi)

theorem runCompress_updates (hi : writesHash i = true) (hu : usesHidden i = true) (h : runCompress s = .next t) :
    Updates i s t := by
  obtain ⟨-, -, rfl⟩ := runCompress_next h
  exact .single (.compress hi hu)

/-- Every command that answers is made of updates that are its own. -/
theorem exec_updates (h : exec i s = .next t) : Updates i s t := by
  cases i with
  | nop => exact finish_updates h
  | clr => exact .head (.clear rfl) (finish_updates h)
  | push b => exact (pushByte_updates s b).trans (finish_updates h)
  | init => exact .head (.loadIv rfl) (finish_updates h)
  | ptxt => exact andThen_updates (fun _ => runPadText_updates rfl) (fun _ _ => finish_updates) h
  | phex => exact andThen_updates (fun _ => runPadHex_updates rfl) (fun _ _ => finish_updates) h
  | cmpr => exact andThen_updates (fun _ => runCompress_updates rfl rfl) (fun _ _ => finish_updates) h
  | htxt =>
    exact .head (.loadIv rfl) (andThen_updates
      (fun _ => andThen_updates (fun _ => runPadText_updates rfl) fun _ _ => runCompress_updates rfl rfl)
      (fun _ _ => finish_updates) h)
  | hhex =>
    exact .head (.loadIv rfl) (andThen_updates
      (fun _ => andThen_updates (fun _ => runPadHex_updates rfl) fun _ _ => runCompress_updates rfl rfl)
      (fun _ _ => finish_updates) h)
  | rdh i => cases h; exact .single (.respond _)
  | rdw j => exact execRdw_updates h
  | rds sel => exact execRds_updates h

theorem runWord_updates {w : Word} (h : runWord w s = .next t) : ∃ i, Updates i s t := by
  rcases runWord_next h with ⟨i, -, hx⟩ | ⟨why, -, rfl⟩
  · exact ⟨i, exec_updates hx⟩
  · exact ⟨.nop, execIllegal_updates _ _⟩

/-- A property that every update, waiting, accepting an event and reset keep is kept by every step. -/
theorem step_keeps {P : State → Prop} (hupdate : ∀ i s t, Update i s t → P s → P t)
    (hidle : ∀ s, P s → P (idleStep s)) (htake : ∀ s rest, P s → P (takeEvent s rest))
    (hreset : ∀ s, P s → P (resetEvent s)) (hs : P s) (h : step s = .next t) : P t := by
  rcases step_next h with ⟨-, -, rfl⟩ | ⟨w, rest, -, -, hw⟩ | ⟨e, rest, -, -, rfl⟩
  · exact hidle s hs
  · obtain ⟨i, hi⟩ := runWord_updates hw
    exact hi.keep (hupdate i) (htake s rest hs)
  · exact hreset _ (htake s rest hs)

end

end Sys2Proof.Machine

/-! The invariant of the engine (10_state.md R41). -/
namespace Sys2Proof.Machine

theorem IsPadding.length_mod {u : List Byte} {m : List Word} (h : IsPadding u m) : m.length % 16 = 0 := by
  rcases h with rfl | ⟨d, -, rfl⟩
  · exact padText_length_mod u
  · exact padHex_length_mod d

/-- Raising an error sets one of the three low bits (R27). -/
theorem setFlag_lt {w : Word} (h : w.toNat < 8) (e : ErrFlag) : (setFlag w e).toNat < 8 := by
  have hcode : (flagCode e).toNat < 2 ^ 3 := by cases e <;> decide
  rw [setFlag, BitVec.toNat_or]
  exact Nat.or_lt_two_pow (n := 3) h hcode

/-- A write at an index that exists leaves no entry beyond the bound (R60). -/
theorem Memory.write_keys_lt {n b k : Nat} {m : List (Nat × BitVec n)} (hm : ∀ x ∈ m, x.1 < b) (hk : k < b)
    (v : BitVec n) : ∀ x ∈ Memory.write m k v, x.1 < b := by
  intro x hx
  rcases Memory.write_keys hx with rfl | hx
  · exact hk
  · exact hm x hx

/-- Elements stored from index 0 that fit leave no entry beyond the bound (R60). -/
theorem Memory.writeFrom_keys_lt {n b : Nat} {m : List (Nat × BitVec n)} {vs : List (BitVec n)}
    (hm : ∀ x ∈ m, x.1 < b) (hvs : vs.length ≤ b) : ∀ x ∈ Memory.writeFrom m 0 vs, x.1 < b := by
  intro x hx
  rcases Memory.writeFrom_keys hx with h | hx
  · omega
  · exact hm x hx

theorem update_keeps_engineInv (i : Instr) (s t : State) (h : Update i s t) (hs : EngineInv s) : EngineInv t := by
  have ⟨hcfg, hlen, hnw, hmod, hst, hiwf, hmwf, hilt, hmlt, hph⟩ := hs
  cases h with
  | respond | loadIv | drawScratch | compress => exact hs
  | raise e => exact ⟨hcfg, hlen, hnw, hmod, setFlag_lt hst e, hiwf, hmwf, hilt, hmlt, hph⟩
  | clear => exact ⟨hcfg, Nat.zero_le _, Nat.zero_le _, rfl, by simp [clearFlags], hiwf, hmwf, hilt, hmlt, hph⟩
  | append _ hroom =>
    exact ⟨hcfg, hroom, hnw, hmod, hst, Memory.write_wf hiwf _ _, hmwf, Memory.write_keys_lt hilt hroom _, hmlt,
      hph⟩
  | dropMessage => exact ⟨hcfg, hlen, Nat.zero_le _, rfl, hst, hiwf, hmwf, hilt, hmlt, hph⟩
  | storeMessage _ _ hm hfit =>
    exact ⟨hcfg, hlen, hfit, hm.length_mod, hst, hiwf, Memory.writeFrom_wf hmwf 0 _, hilt,
      Memory.writeFrom_keys_lt hmlt hfit, hph⟩

/-- A reset keeps the parameter, and every other clause is about a reset value (R40). -/
theorem resetEvent_engineInv {s : State} (h : s.cfg.InRange) : EngineInv (resetEvent s) := by
  simpa [EngineInv] using h

/-- Settles O14: every update keeps the invariant (`update_keeps_engineInv`); waiting and accepting an event touch
nothing it speaks of. -/
theorem stepKeepsInvariant : Obligations.StepKeepsInvariant := fun _ _ =>
  step_keeps update_keeps_engineInv (fun _ h => h) (fun _ _ h => h) fun _ ⟨hcfg, _⟩ => resetEvent_engineInv hcfg

/-- Settles O12. -/
theorem resetValues : Obligations.ResetValues := ⟨rfl, rfl, rfl, rfl, rfl, rfl, rfl⟩

theorem resetWith_engineInv {c : Config} (h : c.InRange) : EngineInv (State.resetWith c) := by
  simpa [EngineInv, State.resetWith] using h

/-- Settles O13: the counts are 0 and the memories are empty for every parameter in range, 128 among them. -/
theorem resetMeetsInvariant : Obligations.ResetMeetsInvariant :=
  ⟨resetWith_engineInv (by decide), fun _ hc => ⟨resetWith_engineInv hc, .inl rfl⟩⟩

end Sys2Proof.Machine

/-! The padded message stays a preprocessor's result (10_state.md R41, last clause). -/
namespace Sys2Proof.Machine

/-- A message that is just stored is the padding of the input, which fits in the buffer. -/
theorem storeMessage_messageFromPreprocessor {s : State} {m : List Word} (hlen : s.len ≤ s.cfg.ibufBytes)
    (hm : IsPadding (inputBytes s) m) : MessageFromPreprocessor (storeMessage s m) := by
  refine .inr ⟨inputBytes s, by simpa using hlen, ?_⟩
  rwa [messageWords_stored]

theorem update_keeps_messageFromPreprocessor (i : Instr) (s t : State) (h : Update i s t)
    (hs : MessageFromPreprocessor s) : MessageFromPreprocessor t := by
  cases h with
  | respond | raise | append | loadIv | drawScratch | compress => exact hs
  | clear | dropMessage => exact .inl rfl
  | storeMessage _ hlen hm => exact storeMessage_messageFromPreprocessor hlen hm

/-- Settles O16: every update keeps it (`update_keeps_messageFromPreprocessor`), and a reset leaves no message. -/
theorem stepKeepsMessageInvariant : Obligations.StepKeepsMessageInvariant := fun _ _ =>
  step_keeps update_keeps_messageFromPreprocessor (fun _ h => h) (fun _ _ h => h) fun _ _ => .inl rfl

end Sys2Proof.Machine

/-! A word that decodes to a command is that command's word (30_encoding.md R90 to R93). -/
namespace Sys2Proof

theorem opField_append_argField (w : Word) : opField w ++ argField w = w :=
  BitVec.extractLsb'_append_extractLsb'_eq_extractLsb' (by rfl) |>.trans (by simp)

/-- A field whose high part is zero is its low part zero-extended (R91). -/
theorem setWidth_extractLsb'_of_high_eq_zero {n k : Nat} (j : Nat) {x : BitVec n} (hn : n = k + j)
    (h : x.extractLsb' k j = 0) : (x.extractLsb' 0 k).setWidth n = x := by
  subst hn
  apply BitVec.eq_of_getLsbD_eq
  intro b hb
  by_cases hlow : b < k
  · simp [hlow, hb]
  · have hbit := congrArg (·.getLsbD (b - k)) h
    rw [BitVec.getLsbD_extractLsb', Nat.add_sub_cancel' (not_lt.1 hlow)] at hbit
    simpa [hlow, hb, show b - k < j by omega] using hbit.symm

/-! What each form of decoding reads back: the row's operation code and the whole `ARG` field (R91). -/

theorem decodePlain_legal {arg : BitVec 24} {i j : Instr} (hi : argOf i = 0) (h : decodePlain arg i = .legal j) :
    opcode j = opcode i ∧ argOf j = arg := by
  unfold decodePlain at h
  split at h <;> cases h
  exact ⟨rfl, hi.trans ‹arg = 0›.symm⟩

theorem decodePush_legal {arg : BitVec 24} {i : Instr} (h : decodePush arg = .legal i) :
    opcode i = 0x02#8 ∧ argOf i = arg := by
  unfold decodePush at h
  split at h <;> cases h
  exact ⟨rfl, setWidth_extractLsb'_of_high_eq_zero 16 rfl ‹_›⟩

theorem decodeRdh_legal {arg : BitVec 24} {i : Instr} (h : decodeRdh arg = .legal i) :
    opcode i = 0x09#8 ∧ argOf i = arg := by
  unfold decodeRdh at h
  split at h <;> cases h
  exact ⟨rfl, setWidth_extractLsb'_of_high_eq_zero 21 rfl ‹_›⟩

theorem decodeRds_legal {arg : BitVec 24} {i : Instr} (h : decodeRds arg = .legal i) :
    opcode i = 0x0B#8 ∧ argOf i = arg := by
  unfold decodeRds at h
  split at h
  · split at h <;> cases h
    exact ⟨rfl, setWidth_extractLsb'_of_high_eq_zero 22 rfl ‹_›⟩
  · cases h

/-- The two fields of a word that decodes to a command are the command's (R93). -/
theorem decodeFields_legal {op : BitVec 8} {arg : BitVec 24} {i : Instr} (h : decodeFields op arg = .legal i) :
    opcode i = op ∧ argOf i = arg := by
  have row {c : BitVec 8} (hi : opcode i = c ∧ argOf i = arg) (hop : op.toNat = c.toNat) :
      opcode i = op ∧ argOf i = arg := BitVec.eq_of_toNat_eq hop ▸ hi
  unfold decodeFields at h
  split at h
  case h_3 hop => exact row (decodePush_legal h) hop
  case h_10 hop => exact row (decodeRdh_legal h) hop
  case h_11 hop => cases h; exact row ⟨rfl, rfl⟩ hop
  case h_12 hop => exact row (decodeRds_legal h) hop
  case h_13 => cases h
  case h_1 hop | h_2 hop | h_4 hop | h_5 hop | h_6 hop | h_7 hop | h_8 hop | h_9 hop =>
    exact row (decodePlain_legal rfl h) hop

/-- No bit of a command's word is ignored (R95). -/
theorem encode_eq_of_decode_legal {w : Word} {i : Instr} (h : decode w = .legal i) : encode i = w := by
  obtain ⟨hop, harg⟩ := decodeFields_legal h
  rw [encode, hop, harg, opField_append_argField]

end Sys2Proof

/-! A flag stays set (10_state.md R28, 60_exceptions.md R288). -/
namespace Sys2Proof.Machine

theorem flagSet_setFlag {w : Word} {e : ErrFlag} (h : flagSet w e = true) (e' : ErrFlag) :
    flagSet (setFlag w e') e = true := by
  rw [flagSet] at h
  simp [flagSet, setFlag, h]

theorem update_keeps_flag {i : Instr} (hi : i ≠ .clr) (e : ErrFlag) (s t : State) (h : Update i s t)
    (hs : flagSet s.status e = true) : flagSet t.status e = true := by
  cases h with
  | respond | append | loadIv | dropMessage | storeMessage | drawScratch | compress => exact hs
  | raise e' => exact flagSet_setFlag hs e'
  | clear h => exact absurd h hi

/-- A word that is not the word of `CLR` leaves every set flag set. -/
theorem runWord_keeps_flag {w : Word} (hw : w ≠ 0x01000000#32) {e : ErrFlag} {s t : State}
    (h : runWord w s = .next t) (hs : flagSet s.status e = true) : flagSet t.status e = true := by
  rcases runWord_next h with ⟨i, hd, hx⟩ | ⟨why, -, rfl⟩
  · have hi : i ≠ .clr := fun hc => hw (encode_eq_of_decode_legal (hc ▸ hd)).symm
    exact (exec_updates hx).keep (update_keeps_flag hi e) hs
  · exact flagSet_setFlag hs .eill

/-- Settles O17: waiting keeps the flags, and so does every word but that of `CLR` (`runWord_keeps_flag`). -/
theorem flagsStaySetUntilClrOrReset : Obligations.FlagsStaySetUntilClrOrReset := by
  intro s t e h hset hclear
  rcases step_next h with ⟨-, -, rfl⟩ | ⟨w, rest, -, hin, hrun⟩ | ⟨ev, rest, hev, hin, -⟩
  · simp [hset] at hclear
  · by_cases hw : w = 0x01000000#32
    · exact ⟨rest, .inl (hw ▸ hin)⟩
    · simp [runWord_keeps_flag hw hrun hset] at hclear
  · rcases hev with rfl | ⟨w, rfl⟩
    · exact ⟨rest, .inr (.inl hin)⟩
    · exact ⟨rest, .inr (.inr ⟨w, hin⟩)⟩

end Sys2Proof.Machine

/-! Who writes what (10_state.md R22, R25, R26, R33, R34; hidden registers by log entry 7). -/
namespace Sys2Proof.Machine

/-- The registers and memories that `i` is not a writer of are the same in both states. An update names the fields it
writes; the others are closed by computation. -/
structure WritesOnly (i : Instr) (s t : State) : Prop where
  hash : writesHash i = false → t.h = s.h := by intros; rfl
  len : i ≠ .clr → (∀ b, i ≠ .push b) → t.len = s.len := by intros; rfl
  nwords : i ≠ .clr → runsPreprocessor i = false → t.nwords = s.nwords := by intros; rfl
  ibuf : (∀ b, i ≠ .push b) → ∀ k, readIbuf t k = readIbuf s k := by intros; rfl
  mbuf : runsPreprocessor i = false → ∀ j, readMbuf t j = readMbuf s j := by intros; rfl
  hidden : usesHidden i = false → SameHidden s t := by intros; exact ⟨rfl, rfl, rfl, rfl, rfl, rfl⟩

theorem SameHidden.trans {s t u : State} (h : SameHidden s t) (h' : SameHidden t u) : SameHidden s u := by
  obtain ⟨hwork, hsched, hscratch, hphase, hblk, ht⟩ := h
  obtain ⟨hwork', hsched', hscratch', hphase', hblk', ht'⟩ := h'
  exact ⟨hwork'.trans hwork, hsched'.trans hsched, hscratch'.trans hscratch, hphase'.trans hphase,
    hblk'.trans hblk, ht'.trans ht⟩

theorem WritesOnly.trans {i : Instr} {s t u : State} (h : WritesOnly i s t) (h' : WritesOnly i t u) :
    WritesOnly i s u where
  hash hi := (h'.hash hi).trans (h.hash hi)
  len hc hp := (h'.len hc hp).trans (h.len hc hp)
  nwords hc hi := (h'.nwords hc hi).trans (h.nwords hc hi)
  ibuf hp k := (h'.ibuf hp k).trans (h.ibuf hp k)
  mbuf hi j := (h'.mbuf hi j).trans (h.mbuf hi j)
  hidden hi := (h.hidden hi).trans (h'.hidden hi)

theorem usesHidden_of_runsPreprocessor {i : Instr} (h : runsPreprocessor i = true) : usesHidden i = true := by
  cases i with
  | ptxt | phex | cmpr | htxt | hhex => rfl
  | nop | clr | push | init | rdh | rdw | rds => exact h

theorem Update.writesOnly {i : Instr} {s t : State} (h : Update i s t) : WritesOnly i s t := by
  cases h with
  | respond | raise => exact {}
  | clear hi => exact { len := fun hc => absurd hi hc, nwords := fun hc => absurd hi hc }
  | append hi => exact { len := fun _ hp => absurd hi (hp _), ibuf := fun hp => absurd hi (hp _) }
  | loadIv hi => exact { hash := by simp [hi] }
  | dropMessage hi => exact { nwords := by simp [hi] }
  | storeMessage hi => exact { nwords := by simp [hi], mbuf := by simp [hi] }
  | drawScratch hi => exact { hidden := by simp [usesHidden_of_runsPreprocessor hi] }
  | compress hi hu => exact { hash := by simp [hi], hidden := by simp [hu] }

theorem Updates.writesOnly {i : Instr} {s t : State} (h : Updates i s t) : WritesOnly i s t :=
  h.keep (P := WritesOnly i s) (fun _ _ hu hw => hw.trans hu.writesOnly) {}

/-- Settles O42: a command writes only by its own updates (`Updates.writesOnly`); an illegal word raises `EILL` and
responds, which writes nothing named here. -/
theorem writersOfState : Obligations.WritersOfState := by
  constructor
  · intro i s t h
    obtain ⟨hhash, hlen, hnwords, hibuf, hmbuf, hhidden⟩ := (exec_updates h).writesOnly
    exact ⟨hhash, hlen, hnwords, hibuf, hmbuf, hhidden, exec_sameOutside h⟩
  · intro w why s t hd h
    rw [runWord_illegal hd] at h
    cases h
    exact ⟨rfl, rfl, rfl, ⟨fun _ => rfl, fun _ => rfl⟩, ⟨rfl, rfl, rfl, rfl, rfl, rfl⟩, rfl, rfl⟩

end Sys2Proof.Machine

/-! A read of either memory after a write to it (20_memory.md R63). -/
namespace Sys2Proof.Machine

theorem readIbuf_writeIbuf (s : State) (k : Nat) (b : Byte) (j : Nat) :
    readIbuf (writeIbuf s k b) j = if j = k then b else readIbuf s j := by
  by_cases hj : j = k
  · rw [if_pos hj, hj, readIbuf_writeIbuf_self]
  · rw [if_neg hj]
    exact readIbuf_writeIbuf_of_ne s b hj

theorem readMbuf_write (s : State) (k : Nat) (v : Word) (j : Nat) :
    readMbuf { s with mbuf := Memory.write s.mbuf k v } j = if j = k then v else readMbuf s j := by
  by_cases hj : j = k
  · rw [if_pos hj, hj, readMbuf, Memory.read?_write_self, Option.getD_some]
  · rw [if_neg hj, readMbuf, Memory.read?_write_of_ne _ v hj, readMbuf]

/-- Settles O44: one read-after-write law per memory. A write keeps the reset count, so an element never written since
reset keeps its unknown content too. -/
theorem readsGiveLatestWrite : Obligations.ReadsGiveLatestWrite :=
  ⟨readIbuf_writeIbuf, readMbuf_write⟩

end Sys2Proof.Machine

/-! The two fields of a command's word, and its row of the opcode table (30_encoding.md R90 to R92). -/
namespace Sys2Proof

theorem encode_eq_iff {i : Instr} {w : Word} : encode i = w ↔ opField w = opcode i ∧ argField w = argOf i := by
  constructor
  · rintro rfl
    exact Laws.Row.fields_encode _ _
  · rintro ⟨hop, harg⟩
    rw [encode, ← hop, ← harg, opField_append_argField]

theorem encode_in_row (i : Instr) : Laws.Row.Statement i := by
  cases i with
  | nop => exact Laws.Row.nop
  | clr => exact Laws.Row.clr
  | push b => exact Laws.Row.push b
  | init => exact Laws.Row.init
  | ptxt => exact Laws.Row.ptxt
  | phex => exact Laws.Row.phex
  | cmpr => exact Laws.Row.cmpr
  | htxt => exact Laws.Row.htxt
  | hhex => exact Laws.Row.hhex
  | rdh i => exact Laws.Row.rdh i
  | rdw j => exact Laws.Row.rdw j
  | rds s => exact Laws.Row.rds s

end Sys2Proof

/-! Decoding reads back a well-formed command, and only such a one (30_encoding.md R93, R95). -/
namespace Sys2Proof

/-- An operand extended to a whole field has nothing above its own bits. -/
@[simp] theorem extractLsb'_setWidth_high {n k : Nat} (j : Nat) (x : BitVec k) : (x.setWidth n).extractLsb' k j = 0 := by
  apply BitVec.eq_of_getLsbD_eq
  intro b hb
  simp

@[simp] theorem extractLsb'_setWidth_low {n k : Nat} (h : k ≤ n) (x : BitVec k) :
    (x.setWidth n).extractLsb' 0 k = x := by
  rw [BitVec.extractLsb'_setWidth_of_le (by omega), BitVec.extractLsb'_eq_self]

theorem decode_encode {i : Instr} (h : wellFormed i = true) : decode (encode i) = .legal i := by
  obtain ⟨hop, harg⟩ := (encode_eq_iff (i := i)).1 rfl
  rw [decode, hop, harg]
  cases i with
  | nop | clr | init | ptxt | phex | cmpr | htxt | hhex | rdw => rfl
  | push b =>
    change decodePush (b.setWidth 24) = _
    simp [decodePush]
  | rdh k =>
    change decodeRdh (k.setWidth 24) = _
    simp [decodeRdh]
  | rds s =>
    change decodeRds (s.setWidth 24) = _
    have hs : s ≠ 3#2 := bne_iff_ne.1 h
    simp [decodeRds, hs]

theorem eq_rds_three_of_not_wellFormed {i : Instr} (h : ¬ wellFormed i = true) : i = .rds 3#2 := by
  cases i with
  | nop | clr | push | init | ptxt | phex | cmpr | htxt | hhex | rdh | rdw => exact absurd rfl h
  | rds s => simpa [wellFormed] using h

/-- The word of `RDS` with `s = 3` is illegal (R94). -/
theorem decode_encode_rds_three : decode (encode (.rds 3#2)) = .illegal .rdsSelThree := by decide

theorem wellFormed_of_decode_legal {w : Word} {i : Instr} (h : decode w = .legal i) : wellFormed i = true := by
  by_contra hwf
  rw [← encode_eq_of_decode_legal h, eq_rds_three_of_not_wellFormed hwf, decode_encode_rds_three] at h
  cases h

/-- Decoding and encoding are inverse on well-formed commands. -/
theorem decode_eq_legal_iff {w : Word} {i : Instr} : decode w = .legal i ↔ wellFormed i = true ∧ encode i = w := by
  constructor
  · exact fun h => ⟨wellFormed_of_decode_legal h, encode_eq_of_decode_legal h⟩
  · rintro ⟨hwf, rfl⟩
    exact decode_encode hwf

/-- Settles O1: the operand is read back from the `ARG` field it was extended to. -/
theorem decodeOfEncode : Obligations.DecodeOfEncode := fun _ => decode_encode

/-- Settles O2: the word's two fields are the command's (`encode_eq_of_decode_legal`), and the only ill-formed term is
`rds 3`, whose word is illegal. -/
theorem encodeOfDecode : Obligations.EncodeOfDecode := fun _ _ => decode_eq_legal_iff.1

end Sys2Proof

/-! The opcode table in match/mask form (30_encoding.md R92, R93). -/
namespace Sys2Proof

/-- A row's mask covers the whole `OP` field, and its pattern fixes `ARG` bits to zero only. -/
theorem row_fields : ∀ r ∈ opcodeRows, opField r.mask = BitVec.allOnes 8 ∧ argField r.pattern = 0 := by decide

theorem accepts_fields {r : OpRow} (hr : r ∈ opcodeRows) {w : Word} (h : r.accepts w = true) :
    opField w = opField r.pattern ∧ argField w &&& argField r.mask = 0 := by
  obtain ⟨hmask, hpattern⟩ := row_fields r hr
  have hw : w &&& r.mask = r.pattern := beq_iff_eq.1 h
  constructor
  · rw [← hw, opField, opField, BitVec.extractLsb'_and, ← opField, ← opField, hmask, BitVec.and_allOnes]
  · rw [← hpattern, ← hw, argField, argField, argField, BitVec.extractLsb'_and]

/-- Settles O4: a word's row is fixed by its `OP` field, which is another in each row. -/
theorem opcodeRowsDisjoint : Obligations.OpcodeRowsDisjoint := by
  intro w r hr r' hr' h h'
  have distinct : ∀ r ∈ opcodeRows, ∀ r' ∈ opcodeRows, opField r.pattern = opField r'.pattern → r = r' := by decide
  obtain ⟨hop, -⟩ := accepts_fields hr h
  obtain ⟨hop', -⟩ := accepts_fields hr' h'
  exact distinct r hr r' hr' (hop.symm.trans hop')

/-- A field that a mask over its bits from `k` up clears has those bits zero. -/
theorem extractLsb'_eq_zero_of_and {n k j : Nat} {x m : BitVec n} (hm : m.extractLsb' k j = BitVec.allOnes j)
    (h : x &&& m = 0) : x.extractLsb' k j = 0 := by
  have hx := congrArg (·.extractLsb' k j) h
  rw [BitVec.extractLsb'_and, hm, BitVec.and_allOnes] at hx
  exact hx.trans (BitVec.extractLsb'_zero)

/-- A row's words are words of its mnemonic, the word of the ill-formed term `rds 3` among them: the `ARG` bits that the
mask leaves free are the operand. -/
theorem exists_command_of_accepts {r : OpRow} (hr : r ∈ opcodeRows) {w : Word} (h : r.accepts w = true) :
    ∃ i, encode i = w ∧ mnemonic i = r.mnemonic := by
  obtain ⟨hop, harg⟩ := accepts_fields hr h
  have plain {i : Instr} (hi : argOf i = 0) (hopi : opField r.pattern = opcode i)
      (hm : argField r.mask = BitVec.allOnes 24) : encode i = w :=
    encode_eq_iff.2 ⟨hop.trans hopi, by rwa [hm, BitVec.and_allOnes, ← hi] at harg⟩
  have low {k j : Nat} (hj : 24 = k + j) (hm : (argField r.mask).extractLsb' k j = BitVec.allOnes j) :
      argField w = ((argField w).extractLsb' 0 k).setWidth 24 :=
    (setWidth_extractLsb'_of_high_eq_zero j hj (extractLsb'_eq_zero_of_and hm harg)).symm
  fin_cases hr
  · exact ⟨.nop, plain rfl rfl rfl, rfl⟩
  · exact ⟨.clr, plain rfl rfl rfl, rfl⟩
  · exact ⟨.push _, encode_eq_iff.2 ⟨hop, low (j := 16) rfl rfl⟩, rfl⟩
  · exact ⟨.init, plain rfl rfl rfl, rfl⟩
  · exact ⟨.ptxt, plain rfl rfl rfl, rfl⟩
  · exact ⟨.phex, plain rfl rfl rfl, rfl⟩
  · exact ⟨.cmpr, plain rfl rfl rfl, rfl⟩
  · exact ⟨.htxt, plain rfl rfl rfl, rfl⟩
  · exact ⟨.hhex, plain rfl rfl rfl, rfl⟩
  · exact ⟨.rdh _, encode_eq_iff.2 ⟨hop, low (j := 21) rfl rfl⟩, rfl⟩
  · exact ⟨.rdw _, encode_eq_iff.2 ⟨hop, rfl⟩, rfl⟩
  · exact ⟨.rds _, encode_eq_iff.2 ⟨hop, low (j := 22) rfl rfl⟩, rfl⟩

theorem exists_illegal_of_no_command {w : Word} (h : ∀ i, wellFormed i = true → encode i ≠ w) :
    ∃ why, decode w = .illegal why := by
  cases hd : decode w with
  | legal i =>
    obtain ⟨hwf, hw⟩ := decode_eq_legal_iff.1 hd
    exact absurd hw (h i hwf)
  | illegal why => exact ⟨why, rfl⟩

/-- A word of the `RDS` row is the word of the term `rds s` with its own `s`. -/
theorem encode_rds_of_row {w : Word} (h : w &&& 0xFFFFFFFC#32 = 0x0B000000#32) :
    encode (.rds (w.extractLsb' 0 2)) = w := by
  obtain ⟨i, rfl, hm⟩ := exists_command_of_accepts (r := opcodeRows[11]) (by decide) (beq_iff_eq.2 h)
  have hself (s : BitVec 2) : (encode (.rds s)).extractLsb' 0 2 = s := by revert s; decide
  cases i with
  | rds s => rw [hself]
  | nop | clr | push | init | ptxt | phex | cmpr | htxt | hhex | rdh | rdw =>
    exact absurd hm (by simp [mnemonic, opcodeRows])

/-- Settles O3: a row's words are the words of its commands (`exists_command_of_accepts`, `encode_in_row`), which
decoding reads back. -/
theorem decodeFollowsOpcodeTable : Obligations.DecodeFollowsOpcodeTable := by
  intro w
  constructor
  · intro r hr haccepts hsel
    obtain ⟨i, rfl, hm⟩ := exists_command_of_accepts hr haccepts
    have hwf : wellFormed i = true := by
      by_contra hwf
      obtain rfl := eq_rds_three_of_not_wellFormed hwf
      exact hsel hm.symm (by decide)
    exact ⟨i, decode_encode hwf, hm, encode_eq_iff.1 rfl⟩
  · rintro (hrows | ⟨hrow, hsel⟩)
    · refine exists_illegal_of_no_command fun i _ hw => ?_
      obtain ⟨⟨r, hr, -, haccepts⟩, -⟩ := encode_in_row i
      rw [hw, hrows r hr] at haccepts
      cases haccepts
    · rw [← encode_rds_of_row hrow, hsel]
      exact ⟨_, decode_encode_rds_three⟩

end Sys2Proof

/-! The words that are no command (30_encoding.md R94). -/
namespace Sys2Proof

/-- The bits of a field from `k` up are not all zero when its value does not fit in `k` bits. -/
theorem extractLsb'_ne_zero_iff {n k j : Nat} {x : BitVec n} (hn : n = k + j) :
    x.extractLsb' k j ≠ 0 ↔ 2 ^ k ≤ x.toNat := by
  have hlt : x.toNat / 2 ^ k < 2 ^ j := Nat.div_lt_of_lt_mul (by rw [← pow_add, ← hn]; exact x.isLt)
  rw [ne_eq, ← BitVec.toNat_inj, BitVec.extractLsb'_toNat, Nat.shiftRight_eq_div_pow, Nat.mod_eq_of_lt hlt]
  simp [Nat.div_eq_zero_iff]

theorem illegal_ite_iff {c : Prop} [Decidable c] {i : Instr} {reason : Illegal} :
    (∃ why, (if c then .legal i else .illegal reason : Decoded) = .illegal why) ↔ ¬ c := by
  by_cases hc : c <;> simp [hc]

theorem decodePlain_illegal_iff {arg : BitVec 24} {i : Instr} :
    (∃ why, decodePlain arg i = .illegal why) ↔ arg.toNat ≠ 0 := by
  rw [decodePlain, illegal_ite_iff]
  exact BitVec.toNat_ne

theorem decodePush_illegal_iff {arg : BitVec 24} :
    (∃ why, decodePush arg = .illegal why) ↔ 2 ^ 8 ≤ arg.toNat := by
  rw [decodePush, illegal_ite_iff]
  exact extractLsb'_ne_zero_iff (j := 16) rfl

theorem decodeRdh_illegal_iff {arg : BitVec 24} :
    (∃ why, decodeRdh arg = .illegal why) ↔ 2 ^ 3 ≤ arg.toNat := by
  rw [decodeRdh, illegal_ite_iff]
  exact extractLsb'_ne_zero_iff (j := 21) rfl

theorem decodeRds_illegal_iff {arg : BitVec 24} :
    (∃ why, decodeRds arg = .illegal why) ↔ 2 ^ 2 ≤ arg.toNat ∨ arg.toNat % 4 = 3 := by
  have hsel : arg.toNat % 4 = 3 ↔ arg.extractLsb' 0 2 = 3#2 := by
    rw [← BitVec.toNat_inj, BitVec.extractLsb'_toNat]; rfl
  rw [← extractLsb'_ne_zero_iff (j := 22) rfl, hsel, decodeRds]
  split
  case isTrue hhigh =>
    split
    case isTrue hs => simp [hs]
    case isFalse hs => simp [hs, hhigh]
  case isFalse hhigh => exact iff_of_true ⟨_, rfl⟩ (.inl hhigh)

/-- Settles O5: by the operation code, each form of decoding is illegal on the `ARG` fields R94 lists for it. -/
theorem illegalWordClasses : Obligations.IllegalWordClasses := by
  intro w
  unfold decode Machine.IllegalClass decodeFields
  split
  case h_3 hop => simp [hop, decodePush_illegal_iff]
  case h_10 hop => simp [hop, decodeRdh_illegal_iff]
  case h_11 hop => simp [hop]
  case h_12 hop => simp [hop, decodeRds_illegal_iff]
  case h_13 => exact iff_of_true ⟨_, rfl⟩ (.inl (by simp only [imp_false] at *; omega))
  case h_1 hop | h_2 hop | h_4 hop | h_5 hop | h_6 hop | h_7 hop | h_8 hop | h_9 hop =>
    simp [hop, decodePlain_illegal_iff]

end Sys2Proof

/-! Sample words, pseudo-commands and the term `rds 3` (30_encoding.md R94, R99, R100). -/
namespace Sys2Proof.Machine

/-- Settles O6: twelve closed words, each decoded by computation. -/
theorem sampleWordsDecode : Obligations.SampleWordsDecode := by
  unfold Obligations.SampleWordsDecode
  decide

/-- Settles O7: the expansions are their definitions, and the sample lines are parsed by computation. -/
theorem pseudoCommandsExpand : Obligations.PseudoCommandsExpand := by
  refine ⟨fun bs => ?_, fun bs => ?_, by decide, by decide, by decide, fun _ => rfl, by decide, by decide, by decide⟩
  · simp [hashText, pushBytes]
  · simp [hashHex, pushBytes]

theorem exec_rds_three (s : State) : exec (.rds 3#2) s = .next (execIllegal s) := rfl

/-- Settles O40: a word that decoded to `rds 3` would make it well-formed, and its meaning is that of an illegal word. -/
theorem rdsThreeActsAsIllegalWord : Obligations.RdsThreeActsAsIllegalWord := by
  refine ⟨rfl, fun w h => ?_, fun s => ⟨execIllegal s, exec_rds_three s, rfl, rfl, rfl, rfl, rfl, ?_, ?_, ?_⟩⟩
  · exact absurd (wellFormed_of_decode_legal h) (by decide)
  · exact ⟨fun _ => rfl, fun _ => rfl⟩
  · exact ⟨rfl, rfl, rfl, rfl, rfl, rfl⟩
  · exact ⟨rfl, rfl⟩

end Sys2Proof.Machine

/-! Addition of words (40_primitives.md R121). -/
namespace Sys2Proof.Machine

theorem add32_eq_add (x y : Word) : add32 x y = x + y := rfl

theorem foldl_add32_toNat (x : Word) (xs : List Word) :
    (xs.foldl add32 x).toNat = (x.toNat + (xs.map BitVec.toNat).sum) % 2 ^ 32 := by
  induction xs generalizing x with
  | nil => exact (Nat.mod_eq_of_lt x.isLt).symm
  | cons y ys ih => simp [ih, add32_eq_add, Nat.add_assoc]

/-- Settles O45: `add32` is the addition of 32-bit words, and a sum of many words is reduced by induction on them. -/
theorem addWrapsModuloWord : Obligations.AddWrapsModuloWord :=
  ⟨BitVec.toNat_add, BitVec.add_comm, BitVec.add_assoc, foldl_add32_toNat⟩

end Sys2Proof.Machine

/-! The operations on single bits: shifts, rotations and the six primitives (40_primitives.md R122 to R129). -/
namespace Sys2Proof.Machine

theorem shr_toNat (x : Word) (n : Nat) : (shr x n).toNat = x.toNat / 2 ^ n := by
  rw [shr, BitVec.toNat_ushiftRight, Nat.shiftRight_eq_div_pow]

theorem shr_getLsbD (x : Word) (n i : Nat) : (shr x n).getLsbD i = x.getLsbD (i + n) := by
  rw [shr, BitVec.getLsbD_ushiftRight, Nat.add_comm]

theorem rotr_eq_rotateRight (x : Word) (n : Nat) : rotr x n = x.rotateRight n := rfl

theorem rotr_getLsbD (x : Word) (n : Nat) {i : Nat} (hi : i < 32) :
    (rotr x n).getLsbD i = x.getLsbD ((i + n) % 32) := by
  rw [rotr_eq_rotateRight, BitVec.getLsbD_rotateRight]
  by_cases hwrap : i < 32 - n % 32
  · have hidx : (i + n) % 32 = n % 32 + i := by omega
    simp [hwrap, hidx]
  · have hidx : (i + n) % 32 = i - (32 - n % 32) := by omega
    simp [hwrap, hidx, hi]

/-- Settles O46: by the bits of a rotation; the source's expression is the definition at an amount below 32. -/
theorem shiftsAndRotations : Obligations.ShiftsAndRotations := by
  refine ⟨shr_toNat, fun x n i => rotr_getLsbD x n, fun x n _ hn => ?_⟩
  rw [rotr, Nat.mod_eq_of_lt hn]

/-- Settles O47: a bit of an exclusive or is the exclusive or of the bits, each brought by its rotation or shift. -/
theorem sigmasBitByBit : Obligations.SigmasBitByBit := by
  intro x i hi
  simp only [lsig0, lsig1, usig0, usig1, BitVec.getLsbD_xor, rotr_getLsbD x _ hi, shr_getLsbD, and_self]

theorem choice_getLsbD (x y z : Word) {i : Nat} (hi : i < 32) :
    (choice x y z).getLsbD i = if x.getLsbD i = true then y.getLsbD i else z.getLsbD i := by
  rw [choice, BitVec.getLsbD_xor, BitVec.getLsbD_and, BitVec.getLsbD_and, BitVec.getLsbD_not]
  cases x.getLsbD i <;> simp [-BitVec.getLsbD_eq_getElem, hi]

theorem majority_getLsbD (x y z : Word) (i : Nat) :
    (majority x y z).getLsbD i = true ↔ 2 ≤ (x.getLsbD i).toNat + (y.getLsbD i).toNat + (z.getLsbD i).toNat := by
  have vote : ∀ a b c : Bool, ((a && b) ^^ (a && c) ^^ (b && c)) = true ↔ 2 ≤ a.toNat + b.toNat + c.toNat := by
    decide
  simp only [majority, BitVec.getLsbD_xor, BitVec.getLsbD_and, vote]

/-- Settles O48: `choice` by the bit of its first operand, `majority` by the eight values of three bits. -/
theorem choiceAndMajorityBitByBit : Obligations.ChoiceAndMajorityBitByBit := fun x y z i hi =>
  ⟨choice_getLsbD x y z hi, majority_getLsbD x y z i⟩

end Sys2Proof.Machine

/-! The constant tables (40_primitives.md R130, R131). -/
namespace Sys2Proof.Machine

theorem primesBelow_312 : primesBelow 312 =
    [2, 3, 5, 7, 11, 13, 17, 19, 23, 29, 31, 37, 41, 43, 47, 53, 59, 61, 67, 71, 73, 79, 83, 89, 97, 101, 103, 107, 109,
     113, 127, 131, 137, 139, 149, 151, 157, 163, 167, 173, 179, 181, 191, 193, 197, 199, 211, 223, 227, 229, 233, 239,
     241, 251, 257, 263, 269, 271, 277, 281, 283, 293, 307, 311] := by
  decide +kernel

/-- Settles O49: with the 64 primes written out, each entry's integer part is searched below 20 and its two bounds are
compared, for the eight square roots and the 64 cube roots. -/
theorem tablesAreRootsOfPrimes : Obligations.TablesAreRootsOfPrimes := by
  unfold Obligations.TablesAreRootsOfPrimes
  rw [primesBelow_312]
  constructor
  · decide
  · decide

end Sys2Proof.Machine

/-! `PTXT` and `CMPR` as one update of the state each, and `CMPR` without a message (41_text_preprocessor.md R156,
R157; 44_compression.md R217). -/
namespace Sys2Proof.Machine

variable {s : State}

@[simp] theorem inputBytes_storeMessage (s : State) (m : List Word) :
    inputBytes (storeMessage s m) = inputBytes s := rfl

/-- Nothing at or above the new `NWORDS` is written (R156, R180). -/
theorem readMbuf_storeMessage_of_length_le (s : State) {m : List Word} {j : Nat} (hj : m.length ≤ j) :
    readMbuf (storeMessage s m) j = readMbuf s j := by
  simp [readMbuf, Memory.read?_writeFrom, hj.not_gt]

theorem exec_ptxt_stores (ho : flagSet s.status .eovf = false) (hl : s.len ≤ s.cfg.ibufBytes) :
    exec .ptxt s = .next (respondStatus (drawScratch (storeMessage s (padText (inputBytes s))))) :=
  andThen_eq_next.2 ⟨_, runPadText_stores ho hl, rfl⟩

theorem exec_ptxt_overflowed (ho : flagSet s.status .eovf = true) :
    exec .ptxt s = .next (respondStatus (dropMessage s)) :=
  andThen_eq_next.2 ⟨_, runPadText_overflowed ho, rfl⟩

theorem exec_cmpr_of_messageFits (h : MessageFits s) :
    exec .cmpr s = .next (respondStatus (drawCompression (foldMessage s))) :=
  andThen_eq_next.2 ⟨_, runCompress_fits h.1 h.2, rfl⟩

theorem messageWords_eq_nil (h : s.nwords = 0) : messageWords s = [] := by simp [messageWords, h]

/-- With no message there is nothing to compress (R217). -/
theorem exec_cmpr_of_no_message (h : s.nwords = 0) : ∃ t, exec .cmpr s = .next t ∧ t.h = s.h :=
  ⟨_, exec_cmpr_of_messageFits (by simp [MessageFits, h]), by simp [messageWords_eq_nil h]⟩

end Sys2Proof.Machine

/-! What `PTXT` does (41_text_preprocessor.md R156, R157). -/
namespace Sys2Proof.Machine

/-- Settles O24: the dropped message is the only change, and no message is left to compress. -/
theorem ptxtAfterOverflow : Obligations.PtxtAfterOverflow := fun _ ho =>
  ⟨_, exec_ptxt_overflowed ho, rfl, rfl, rfl, rfl, rfl, ⟨fun _ => rfl, fun _ => rfl⟩, rfl, ⟨rfl, rfl⟩,
    exec_cmpr_of_no_message rfl⟩

/-- Settles O23: the stored message reads back, and the second `PTXT` finds the same input and flags and so stores the
same message. -/
theorem ptxtPadsInput : Obligations.PtxtPadsInput := by
  refine ⟨by decide, fun s ho hl => ?_⟩
  refine ⟨_, exec_ptxt_stores ho hl, messageWords_stored s _, rfl, rfl, rfl, rfl, rfl, readIbuf_congr rfl rfl,
    fun _ hj => readMbuf_storeMessage_of_length_le s hj, rfl, ⟨rfl, rfl⟩, _, exec_ptxt_stores ho hl, ?_, rfl⟩
  simp [messageWords_stored]

end Sys2Proof.Machine

/-! The shape of the padded text: its length, its bytes and its two length words (41_text_preprocessor.md R152 to
R154). -/
namespace Sys2Proof.Machine

theorem padText_length (u : List Byte) : (padText u).length = 16 * ceilDiv (u.length + 9) 64 := by
  simp only [padText, finishPadding_length, packBytes_length, List.length_append, List.length_singleton, ceilDiv,
    zeroCount]
  omega

theorem byteAt_eq_zero {u : List Byte} {k : Nat} (h : u.length ≤ k) : byteAt u k = 0 :=
  List.getD_eq_default _ _ h

/-- Word `j` of the packed stream, for every `j`: past the end the bytes are zero, and so is the word (R68, R152). -/
theorem getD_packBytes (u : List Byte) (j : Nat) :
    (packBytes u).getD j 0 =
      bytesWord (byteAt u (4 * j)) (byteAt u (4 * j + 1)) (byteAt u (4 * j + 2)) (byteAt u (4 * j + 3)) := by
  by_cases hj : j < (packBytes u).length
  · rw [List.getD_eq_getElem _ _ hj]
    simp [packBytes]
  · have hlen : ceilDiv u.length 4 ≤ j := by simpa using hj
    have hend : ∀ r, byteAt u (4 * j + r) = 0 := fun r => byteAt_eq_zero (by rw [ceilDiv] at hlen; omega)
    rw [List.getD_eq_default _ _ (not_lt.1 hj), show byteAt u (4 * j) = 0 from hend 0, hend 1, hend 2, hend 3]
    rfl

theorem messageByte_four_mul_add (m : List Word) (j : Nat) {r : Nat} (hr : r < 4) :
    messageByte m (4 * j + r) = (m.getD j 0).extractLsb' (24 - 8 * r) 8 := by
  have hdiv : (4 * j + r) / 4 = j := by omega
  have hmod : (4 * j + r) % 4 = r := by omega
  rw [messageByte, hdiv, hmod]

/-- Packing keeps the order of the bytes, and both sequences go on with zeros (R66, R68, R152). -/
theorem messageByte_packBytes (u : List Byte) (k : Nat) : messageByte (packBytes u) k = byteAt u k := by
  obtain ⟨j, r, hr, rfl⟩ : ∃ j r, r < 4 ∧ k = 4 * j + r :=
    ⟨k / 4, k % 4, Nat.mod_lt _ (by omega), (Nat.div_add_mod k 4).symm⟩
  rw [messageByte_four_mul_add _ _ hr, getD_packBytes, bytesWord_byte _ _ _ _ _ hr]
  interval_cases r <;> rfl

/-- Up to the two length words a finished message has the bytes of its packed part and then zeros (R153). -/
theorem messageByte_finishPadding (p : List Word) (bits : BitVec 64) {k : Nat}
    (hk : k < 4 * ((finishPadding p bits).length - 2)) : messageByte (finishPadding p bits) k = messageByte p k := by
  rw [finishPadding_length] at hk
  have hfill : k / 4 < (p ++ List.replicate (zeroCount p.length) 0).length := by
    simp only [List.length_append, List.length_replicate]
    omega
  rw [messageByte, messageByte, finishPadding, List.getD_append _ _ _ _ hfill]
  by_cases hp : k / 4 < p.length
  · rw [List.getD_append _ _ _ _ hp]
  · rw [List.getD_append_right _ _ _ _ (by omega), List.getD_eq_default p _ (by omega)]
    simp

/-- The bytes of the padded text below its length words are the bytes with the delimiter, and zeros (R151, R152). -/
theorem messageByte_padText (u : List Byte) {k : Nat} (hk : k < 4 * ((padText u).length - 2)) :
    messageByte (padText u) k = byteAt (u ++ [0x80#8]) k :=
  (messageByte_finishPadding _ _ hk).trans (messageByte_packBytes _ _)

theorem lengthHigh_lengthLow (bits : BitVec 64) :
    (lengthHigh bits).toNat * 2 ^ 32 + (lengthLow bits).toNat = bits.toNat := by
  simp only [lengthHigh, lengthLow, BitVec.extractLsb'_toNat, Nat.shiftRight_eq_div_pow]
  omega

/-- The last two words of a finished message hold the length, high word first (R69, R153). -/
theorem finishPadding_lastWords (p : List Word) (bits : BitVec 64) :
    (finishPadding p bits).getD ((finishPadding p bits).length - 2) 0 = lengthHigh bits ∧
    (finishPadding p bits).getD ((finishPadding p bits).length - 1) 0 = lengthLow bits := by
  have hfill : (p ++ List.replicate (zeroCount p.length) (0 : Word)).length = p.length + zeroCount p.length := by simp
  rw [finishPadding_length, finishPadding]
  constructor
  · rw [List.getD_append_right _ _ _ _ (by omega), hfill, Nat.add_sub_cancel, Nat.sub_self]
    rfl
  · rw [List.getD_append_right _ _ _ _ (by omega), hfill]
    simp

theorem padText_lengthWords {u : List Byte} (hu : u.length < 2 ^ 61) :
    ((padText u).getD ((padText u).length - 2) 0).toNat * 2 ^ 32 +
      ((padText u).getD ((padText u).length - 1) 0).toNat = 8 * u.length := by
  obtain ⟨hhigh, hlow⟩ := finishPadding_lastWords (packBytes (u ++ [0x80#8])) (BitVec.ofNat 64 (8 * u.length))
  rw [padText, hhigh, hlow, lengthHigh_lengthLow, BitVec.toNat_ofNat]
  exact Nat.mod_eq_of_lt (by omega)

/-- Settles O50: the length is computed from that of the packed stream (`padText_length`), each byte clause is about
the stream with its delimiter (`messageByte_padText`), and the last two words are `padText_lengthWords`. -/
theorem textPaddingShape : Obligations.TextPaddingShape := by
  rintro s m hs rfl
  have hlen := padText_length s
  rw [ceilDiv] at hlen
  have hroom : s.length < 4 * ((padText s).length - 2) := by omega
  refine ⟨by omega, padText_length_mod s, padText_length s, fun k hk => ?_, ?_, fun k hk hend => ?_,
    padText_lengthWords hs, fun n hmod hfits => by omega⟩
  · rw [messageByte_padText s (hk.trans hroom), byteAt, List.getD_append _ _ _ _ hk]
  · rw [messageByte_padText s hroom, byteAt, List.getD_append_right _ _ _ _ le_rfl, Nat.sub_self]
    rfl
  · rw [messageByte_padText s hend]
    exact byteAt_eq_zero (by simpa using hk)

end Sys2Proof.Machine

/-! The digit map and the values of a digit string (42_hex_preprocessor.md R170, R171). -/
namespace Sys2Proof.Machine

/-- Settles O52: the model's bounds are the ranges of the three rows of R170, and the 256 codes are counted. -/
theorem hexDigitMap : Obligations.HexDigitMap := by
  refine ⟨fun c => ?_, by decide⟩
  simp only [hexval, List.mem_range'_1, Nat.reduceAdd, Nat.lt_succ_iff]

/-- Each digit of a valid string is the value of its character. -/
theorem map_hexval_of_hexDigits {cs : List Byte} {d : List Nibble} (h : hexDigits cs = some d) :
    cs.map hexval = d.map some := by
  induction cs generalizing d with
  | nil =>
    cases h
    rfl
  | cons c cs ih =>
    rw [hexDigits_cons] at h
    split at h <;> cases h
    rename_i x ds hx hds
    rw [List.map_cons, List.map_cons, hx, ih hds]

theorem hexDigits_eq_none_iff {cs : List Byte} : hexDigits cs = none ↔ ∃ c ∈ cs, hexval c = none := by
  induction cs with
  | nil => simp [hexDigits]
  | cons c cs ih =>
    rw [hexDigits_cons, List.exists_mem_cons_iff, ← ih]
    cases hexval c <;> cases hexDigits cs <;> simp

/-- The input holds an invalid character exactly when the engine finds one (R182). -/
theorem hexDigits_inputBytes_eq_none_iff {s : State} :
    hexDigits (inputBytes s) = none ↔ ∃ k, k < s.len ∧ hexval (readIbuf s k) = none := by
  simp [hexDigits_eq_none_iff, inputBytes]

/-- The values of the input are those of its characters, one each. -/
theorem getElem?_inputDigits {s : State} {d : List Nibble} (h : hexDigits (inputBytes s) = some d) {k : Nat}
    (hk : k < s.len) : d[k]? = hexval (readIbuf s k) := by
  have hkd : k < d.length := by simpa [hexDigits_length h] using hk
  have hval := congrArg (·[k]?) (map_hexval_of_hexDigits h)
  simpa [inputBytes, hk, hkd] using hval.symm

end Sys2Proof.Machine

/-! What `PHEX` does (42_hex_preprocessor.md R180 to R182). -/
namespace Sys2Proof.Machine

section
variable {s : State}

theorem exec_phex_stores (ho : flagSet s.status .eovf = false) (hl : s.len ≤ s.cfg.ibufBytes) {d : List Nibble}
    (hd : hexDigits (inputBytes s) = some d) :
    exec .phex s = .next (respondStatus (drawScratch (storeMessage s (padHex d)))) :=
  andThen_eq_next.2 ⟨_, runPadHex_stores ho hl hd, rfl⟩

theorem exec_phex_overflowed (ho : flagSet s.status .eovf = true) :
    exec .phex s = .next (respondStatus (dropMessage s)) :=
  andThen_eq_next.2 ⟨_, runPadHex_overflowed ho, rfl⟩

theorem exec_phex_invalid (ho : flagSet s.status .eovf = false) (hl : s.len ≤ s.cfg.ibufBytes)
    (hd : hexDigits (inputBytes s) = none) :
    exec .phex s = .next (respondStatus (drawScratch (dropMessage (raise .ehex s)))) :=
  andThen_eq_next.2 ⟨_, runPadHex_invalid ho hl hd, rfl⟩

end

/-- Settles O25: every character has a value (`hexDigits_inputBytes_eq_none_iff`), and the stored message reads back
word for word. -/
theorem phexPadsInput : Obligations.PhexPadsInput := by
  refine ⟨by decide, fun s ho hl hvalid => ?_⟩
  obtain ⟨d, hd⟩ : ∃ d, hexDigits (inputBytes s) = some d := by
    refine Option.ne_none_iff_exists'.1 fun hnone => ?_
    obtain ⟨k, hk, hbad⟩ := hexDigits_inputBytes_eq_none_iff.1 hnone
    simpa [hbad] using hvalid k hk
  exact ⟨_, d, exec_phex_stores ho hl hd, by simpa using hexDigits_length hd, fun _ => getElem?_inputDigits hd,
    messageWords_stored s _, rfl, rfl, rfl, rfl, rfl, fun _ => rfl,
    fun _ hj => readMbuf_storeMessage_of_length_le s hj, rfl, rfl, rfl⟩

/-- Settles O26: the dropped message is the only change. -/
theorem phexAfterOverflow : Obligations.PhexAfterOverflow := fun _ ho =>
  ⟨_, exec_phex_overflowed ho, rfl, rfl, rfl, rfl, rfl, ⟨fun _ => rfl, fun _ => rfl⟩, rfl, rfl, rfl⟩

/-- Settles O27: one invalid character leaves the input without values, and then `EHEX` and `NWORDS` are written. -/
theorem phexInvalidDigit : Obligations.PhexInvalidDigit := fun _ k ho hl hk hbad =>
  ⟨_, exec_phex_invalid ho hl (hexDigits_inputBytes_eq_none_iff.2 ⟨k, hk, hbad⟩), rfl, rfl, rfl, rfl, rfl,
    ⟨fun _ => rfl, fun _ => rfl⟩, rfl, rfl, rfl⟩

end Sys2Proof.Machine

/-! Padding digits is padding the bytes they stand for (42_hex_preprocessor.md R179). -/
namespace Sys2Proof.Machine

theorem evenDigits_length_even (d : List Nibble) : (evenDigits d).length % 2 = 0 := by
  rw [evenDigits_length]; omega

theorem two_mul_digitBytes_length {e : List Nibble} (he : e.length % 2 = 0) :
    2 * (digitBytes e).length = e.length := by
  induction e using List.twoStepInduction with
  | nil => rfl
  | singleton x => cases he
  | cons_cons hi lo rest ih =>
    have hrest := ih (Nat.add_mod_right _ 2 ▸ he)
    rw [digitBytes, List.length_cons, List.length_cons, List.length_cons]
    omega

/-- Byte `m` of the delimited byte stream is digits `2m` and `2m + 1` of the delimited digit stream: the delimiter digit
8 and the zero after it are the delimiter byte `0x80` (R174, R175). -/
theorem byteAt_delimited {e : List Nibble} (he : e.length % 2 = 0) (m : Nat) :
    (byteAt (digitBytes e ++ [0x80#8]) m).toNat =
      16 * (nibAt (e ++ [8#4]) (2 * m)).toNat + (nibAt (e ++ [8#4]) (2 * m + 1)).toNat := by
  induction e using List.twoStepInduction generalizing m with
  | nil => cases m <;> rfl
  | singleton x => cases he
  | cons_cons hi lo rest ih =>
    cases m with
    | zero =>
      have hhi := hi.isLt
      have hlo := lo.isLt
      exact Nat.mod_eq_of_lt (by omega)
    | succ m => exact ih (Nat.add_mod_right _ 2 ▸ he) m

/-- The delimited digits and the delimited bytes are packed into the same words: a word of eight digits is a word of
four pairs of them (R67, R175). -/
theorem packNibbles_delimited {e : List Nibble} (he : e.length % 2 = 0) :
    packNibbles (e ++ [8#4]) = packBytes (digitBytes e ++ [0x80#8]) := by
  have hlen := two_mul_digitBytes_length he
  have hcount : ceilDiv (e ++ [8#4]).length 8 = ceilDiv (digitBytes e ++ [0x80#8]).length 4 := by
    simp only [ceilDiv, List.length_append, List.length_singleton]
    omega
  rw [packNibbles, packBytes, hcount]
  refine List.map_congr_left fun j _ => BitVec.eq_of_toNat_eq ?_
  simp only [nibblesWord_toNat, bytesWord_toNat, byteAt_delimited he, Nat.mul_add, ← Nat.mul_assoc, Nat.add_assoc,
    Nat.reduceMul, Nat.reduceAdd]
  omega

/-- R179 for every digit sequence. -/
theorem padHex_eq_padText (d : List Nibble) : padHex d = padText (digitBytes (evenDigits d)) := by
  have heven := evenDigits_length_even d
  rw [padHex, padText, packNibbles_delimited heven, ← two_mul_digitBytes_length heven, ← Nat.mul_assoc]

/-- Settles O51: the two paddings are equal (`padHex_eq_padText`), so the length is that of the text padding of half as
many bytes as the even sequence has digits. -/
theorem hexPaddingIsTextPadding : Obligations.HexPaddingIsTextPadding := by
  intro d
  have hlen := two_mul_digitBytes_length (evenDigits_length_even d)
  refine ⟨padHex_eq_padText d, ?_⟩
  rw [padHex_eq_padText, padText_length, ← evenDigits_length, ← hlen, Nat.mul_div_cancel_left _ (by omega)]

end Sys2Proof.Machine

/-! The message schedule: the block's words, then the recurrence (43_schedule_expander.md R201, R202). -/
namespace Sys2Proof.Machine

/-- A word already in the schedule is never changed. -/
theorem getD_expandFrom_of_lt (n : Nat) {w : List Word} {i : Nat} (hi : i < w.length) :
    (expandFrom n w).getD i 0 = w.getD i 0 := by
  induction n generalizing w with
  | zero => rfl
  | succ n ih =>
    have hnext : i < (w ++ [scheduleWord w w.length]).length := by simp; omega
    rw [expandFrom, ih hnext, List.getD_append _ _ _ _ hi]

/-- A word of the recurrence depends only on words of lower index (R202). -/
theorem scheduleWord_congr {w w' : List Word} {i : Nat} (hpos : 0 < i) (h : ∀ j < i, w.getD j 0 = w'.getD j 0) :
    scheduleWord w i = scheduleWord w' i := by
  have hback : ∀ k, 0 < k → w.getD (i - k) 0 = w'.getD (i - k) 0 := fun k hk => h _ (Nat.sub_lt hpos hk)
  simp only [scheduleWord, hback, Nat.reduceLT]

/-- Each appended word satisfies the recurrence in the finished schedule: when it is appended, the words of lower index
are already the final ones. -/
theorem getD_expandFrom_eq_scheduleWord (n : Nat) {w : List Word} {i : Nat} (hpos : 0 < w.length) (hi : w.length ≤ i)
    (hend : i < w.length + n) : (expandFrom n w).getD i 0 = scheduleWord (expandFrom n w) i := by
  induction n generalizing w with
  | zero => omega
  | succ n ih =>
    have hlen : (w ++ [scheduleWord w w.length]).length = w.length + 1 := by simp
    rcases hi.eq_or_lt with rfl | hlater
    · calc (expandFrom (n + 1) w).getD w.length 0
          = (w ++ [scheduleWord w w.length]).getD w.length 0 := getD_expandFrom_of_lt n (by omega)
        _ = scheduleWord w w.length := by simp
        _ = scheduleWord (expandFrom (n + 1) w) w.length :=
          scheduleWord_congr hpos fun _ hj => (getD_expandFrom_of_lt (n + 1) hj).symm
    · exact ih (by omega) (by omega) (by omega)

/-- Settles O53: `expand` appends 48 words to the block, keeps the block's words, and each word it appends satisfies
the recurrence in the finished schedule (`getD_expandFrom_eq_scheduleWord`). -/
theorem scheduleRecurrence : Obligations.ScheduleRecurrence := by
  intro b hb
  refine ⟨?_, fun i hi => getD_expandFrom_of_lt 48 (by omega), fun i hi hend => ?_⟩
  · rw [expand, expandFrom_length, hb]
  · exact getD_expandFrom_eq_scheduleWord 48 (by omega) (by omega) (by omega)

end Sys2Proof.Machine

/-! The rounds of a block and the chain of blocks (44_compression.md R211 to R214). -/
namespace Sys2Proof.Machine

/-- Settles O54: every sum of the model is the addition of 32-bit words. -/
theorem roundFormula : Obligations.RoundFormula := by
  rintro a b c d e f g h k x _ _ rfl rfl
  simp only [mixRound, roundT1, roundT2, add32_eq_add]

/-- The working variables after rounds `0 .. n-1` with schedule `w` (step 3 of R212). -/
def workAfter (v : Words8) (w : List Word) (n : Nat) : Words8 :=
  (List.range n).foldl (fun v t => mixRound v (kAt t) (w.getD t 0)) v

theorem workAfter_succ (v : Words8) (w : List Word) (n : Nat) :
    workAfter v w (n + 1) = mixRound (workAfter v w n) (kAt n) (w.getD n 0) := by
  simp [workAfter, List.range_succ]

theorem compressBlock_eq_addWords_workAfter (hin : Words8) (b : List Word) :
    compressBlock hin b = addWords hin (workAfter hin (expand b) 64) := rfl

theorem wordAt_addWords (u v : Words8) (i : Nat) : wordAt (addWords u v) i = wordAt u i + wordAt v i := by
  unfold wordAt
  split <;> rfl

/-- Settles O55: the sequence is that of the working variables after each round (`workAfter`). -/
theorem compressBlockSteps : Obligations.CompressBlockSteps := by
  refine fun hin b => ⟨workAfter hin (expand b), rfl, fun t _ => workAfter_succ _ _ t, fun i _ => ?_⟩
  rw [compressBlock_eq_addWords_workAfter, wordAt_addWords]

theorem compressAll_of_one_block (h : Words8) {b : List Word} (hb : b.length = 16) :
    compressAll h b = compressBlock h b := by
  have hblock : blockOf b 0 = b := List.take_of_length_le hb.le
  simp [compressAll, hb, hblock]

theorem blockOf_append_of_lt {m : List Word} (m' : List Word) {n : Nat} (hn : n < m.length / 16) :
    blockOf (m ++ m') n = blockOf m n := by
  rw [blockOf, blockOf, List.drop_append_of_le_length (by omega),
    List.take_append_of_le_length (by rw [List.length_drop]; omega)]

theorem blockOf_append_add {m : List Word} (m' : List Word) (hm : m.length % 16 = 0) (n : Nat) :
    blockOf (m ++ m') (m.length / 16 + n) = blockOf m' n := by
  have hskip : 16 * (m.length / 16 + n) = m.length + 16 * n := by omega
  rw [blockOf, blockOf, hskip, List.drop_length_add_append]

/-- Whole blocks are folded first, and the rest from their result (R213, R214): below `m.length / 16` the blocks are
those of `m`, from there on those of `m'`. -/
theorem compressAll_append (h : Words8) {m : List Word} (m' : List Word) (hm : m.length % 16 = 0) :
    compressAll h (m ++ m') = compressAll (compressAll h m) m' := by
  have hcount : (m ++ m').length / 16 = m.length / 16 + m'.length / 16 := by
    rw [List.length_append]; omega
  have hfirst : (List.range (m.length / 16)).foldl (fun h n => compressBlock h (blockOf (m ++ m') n)) h =
      compressAll h m :=
    List.foldl_ext _ _ _ fun _ n hn => by rw [blockOf_append_of_lt m' (List.mem_range.1 hn)]
  rw [compressAll, hcount, List.range_add, List.foldl_append, hfirst, List.foldl_map]
  simp only [blockOf_append_add m' hm]
  rfl

/-- Settles O56: one block by `compressAll_of_one_block`, a sequence of whole blocks by `compressAll_append`. -/
theorem compressAllChains : Obligations.CompressAllChains :=
  ⟨compressAll_nil, fun h _ => compressAll_of_one_block h, fun h _ m' => compressAll_append h m'⟩

end Sys2Proof.Machine

/-! What `INIT` and `CMPR` do (44_compression.md R215 to R217). -/
namespace Sys2Proof.Machine

theorem exec_init (s : State) : exec .init s = .next (respondStatus (loadIv s)) := rfl

/-- Settles O28: loading the initial vector is the only change besides the response. -/
theorem initLoadsIv : Obligations.InitLoadsIv :=
  ⟨by decide, fun s => ⟨_, exec_init s, fun _ _ => rfl, rfl, rfl, rfl, rfl, ⟨fun _ => rfl, fun _ => rfl⟩, rfl,
    ⟨rfl, rfl⟩, _, exec_init _, rfl⟩⟩

/-- Settles O29: the fold writes `H`, the engine's own registers are hidden, and no flag is read. -/
theorem cmprFoldsMessage : Obligations.CmprFoldsMessage :=
  ⟨by decide, fun _ hblocks hfits => ⟨_, exec_cmpr_of_messageFits ⟨hblocks, hfits⟩, rfl, rfl, rfl, rfl, rfl,
    ⟨fun _ => rfl, fun _ => rfl⟩, rfl, rfl, rfl⟩⟩

/-- `CMPR` answers only on whole blocks that fit, and then by one update (R216). -/
theorem exec_cmpr_next {s t : State} (h : exec .cmpr s = .next t) :
    MessageFits s ∧ t = respondStatus (drawCompression (foldMessage s)) := by
  obtain ⟨u, hrun, hfinish⟩ := andThen_eq_next.1 h
  obtain ⟨hblocks, hfits, rfl⟩ := runCompress_next hrun
  exact ⟨⟨hblocks, hfits⟩, by simpa using hfinish.symm⟩

/-- Settles O30: `CMPR` keeps the message and its size, so the second one answers too and folds the same words. -/
theorem cmprChains : Obligations.CmprChains := by
  intro s t h
  obtain ⟨hfits, rfl⟩ := exec_cmpr_next h
  exact ⟨fun hnone => by simp [messageWords_eq_nil hnone], _, exec_cmpr_of_messageFits hfits, by simp⟩

end Sys2Proof.Machine

/-! The step runs the decoded command (45_host_commands.md R240). -/
namespace Sys2Proof.Machine

/-- Settles O8: an idle engine takes the word from the port and runs what it decodes to. -/
theorem stepRunsDecodedCommand : Obligations.StepRunsDecodedCommand := fun s _ rest _ hidle hin hd =>
  (step_cmd hidle hin).trans (runWord_legal hd (takeEvent s rest))

end Sys2Proof.Machine

/-! The value of a command's word (30_encoding.md R90, R91). -/
namespace Sys2Proof

theorem encode_toNat (i : Instr) : (encode i).toNat = (opcode i).toNat * 2 ^ 24 + (argOf i).toNat := by
  rw [encode, BitVec.toNat_append, ← Nat.shiftLeft_add_eq_or_of_lt (argOf i).isLt, Nat.shiftLeft_eq]

theorem encode_push_toNat (b : BitVec 8) : (encode (.push b)).toNat = 0x02000000 + b.toNat := by
  rw [encode_toNat, argOf, BitVec.toNat_setWidth_of_le (by omega)]
  simp [opcode]

theorem encode_rdh_toNat (i : BitVec 3) : (encode (.rdh i)).toNat = 0x09000000 + i.toNat := by
  rw [encode_toNat, argOf, BitVec.toNat_setWidth_of_le (by omega)]
  simp [opcode]

theorem encode_rdw_toNat (j : BitVec 24) : (encode (.rdw j)).toNat = 0x0A000000 + j.toNat := by
  simp [encode_toNat, opcode, argOf]

theorem encode_rds_toNat (sel : BitVec 2) : (encode (.rds sel)).toNat = 0x0B000000 + sel.toNat := by
  rw [encode_toNat, argOf, BitVec.toNat_setWidth_of_le (by omega)]
  simp [opcode]

end Sys2Proof

/-! What `NOP`, `CLR` and `PUSH` do (45_host_commands.md R243, R244, R246). -/
namespace Sys2Proof.Machine

theorem exec_nop (s : State) : exec .nop s = .next (respondStatus s) := rfl

theorem exec_clr (s : State) :
    exec .clr s = .next (respondStatus (clearErrors { s with len := 0, nwords := 0 })) := rfl

theorem exec_push (b : BitVec 8) (s : State) : exec (.push b) s = .next (respondStatus (pushByte s b)) := rfl

/-- Settles O20: the response is all that is written. -/
theorem nopOnlyResponds : Obligations.NopOnlyResponds :=
  ⟨by decide, fun s => ⟨_, exec_nop s, rfl, ⟨rfl, rfl, rfl, rfl⟩, ⟨fun _ => rfl, fun _ => rfl⟩, rfl, rfl, rfl⟩,
    _, exec_nop _, rfl⟩

/-- Settles O21: every update of another command keeps a set flag (`update_keeps_flag`). -/
theorem clrStartsNewMessage : Obligations.ClrStartsNewMessage :=
  ⟨by decide, fun s => ⟨_, exec_clr s, rfl, rfl, rfl, rfl, rfl, ⟨fun _ => rfl, fun _ => rfl⟩, rfl, rfl, rfl⟩,
    fun _ _ _ e hi h hset => (exec_updates h).keep (update_keeps_flag hi e) hset⟩

theorem pushByte_of_room {s : State} (hroom : s.len < s.cfg.ibufBytes) (b : Byte) :
    pushByte s b = { writeIbuf s s.len b with len := s.len + 1 } := if_pos hroom

theorem pushByte_of_full {s : State} (hfull : ¬ s.len < s.cfg.ibufBytes) (b : Byte) :
    pushByte s b = raise .eovf s := if_neg hfull

/-- Settles O22: with room the byte is written at `LEN` and read back there; else `EOVF` is the only change. -/
theorem pushAppendsOrOverflows : Obligations.PushAppendsOrOverflows := by
  refine fun s b => ⟨encode_push_toNat b, _, exec_push b s, ?_⟩
  by_cases hroom : s.len < s.cfg.ibufBytes
  · rw [if_pos hroom, pushByte_of_room hroom]
    exact ⟨⟨rfl, rfl, readIbuf_writeIbuf_self s s.len b, fun _ hk => readIbuf_writeIbuf_of_ne s b hk⟩,
      rfl, rfl, rfl, fun _ => rfl, rfl, rfl, rfl⟩
  · rw [if_neg hroom, pushByte_of_full hroom]
    exact ⟨⟨rfl, rfl, fun _ => rfl⟩, rfl, rfl, rfl, fun _ => rfl, rfl, rfl, rfl⟩

end Sys2Proof.Machine

/-! What `RDH`, `RDW` and `RDS` do (45_host_commands.md R250, R252, R254). -/
namespace Sys2Proof.Machine

theorem exec_rdh (i : BitVec 3) (s : State) : exec (.rdh i) s = .next (respond s (wordAt s.h i.toNat)) := rfl

theorem getElem?_wordList (v : Words8) {i : Nat} (hi : i < 8) : (wordList v)[i]? = some (wordAt v i) := by
  interval_cases i <;> rfl

section
variable {s : State}

theorem exec_rdw_of_lt {j : BitVec 24} (hfits : s.nwords ≤ mbufWords s.cfg) (hj : j.toNat < s.nwords) :
    exec (.rdw j) s = .next (respond s (readMbuf s j.toNat)) :=
  (if_pos hj).trans (if_pos (hj.trans_le hfits))

theorem exec_rdw_of_not_lt {j : BitVec 24} (hj : ¬ j.toNat < s.nwords) :
    exec (.rdw j) s = .next (execIllegal s) := if_neg hj

/-- `RDW` answers by the message word, or as an illegal word does. -/
theorem exec_rdw_next {j : BitVec 24} {t : State} (h : exec (.rdw j) s = .next t) :
    t = if j.toNat < s.nwords then respond s (readMbuf s j.toNat) else execIllegal s := by
  change execRdw j s = .next t at h
  unfold execRdw at h
  split at h
  case isTrue hj => rw [if_pos hj]; split at h <;> cases h; rfl
  case isFalse hj => rw [if_neg hj]; cases h; rfl

end

/-- The register that `RDS` reads (R254). -/
def selectedRegister (sel : BitVec 2) (s : State) : Word :=
  if sel = 0#2 then s.status else if sel = 1#2 then zext32 s.len else zext32 s.nwords

theorem exec_rds_of_wellFormed {sel : BitVec 2} (h : wellFormed (.rds sel) = true) (s : State) :
    exec (.rds sel) s = .next (respond s (selectedRegister sel s)) := by
  have hsel : sel = 0#2 ∨ sel = 1#2 ∨ sel = 2#2 := by revert sel; decide
  rcases hsel with rfl | rfl | rfl <;> rfl

/-- Settles O37: the three operand bits name one of the eight words. -/
theorem rdhReturnsHashWord : Obligations.RdhReturnsHashWord := fun s i =>
  ⟨encode_rdh_toNat i, _, exec_rdh i s, (getElem?_wordList s.h i.isLt).symm, ⟨rfl, rfl, rfl, rfl⟩,
    ⟨fun _ => rfl, fun _ => rfl⟩, rfl, rfl, rfl⟩

/-- Settles O38: below `NWORDS` the word is read, else `EILL` is the only change. -/
theorem rdwReturnsMessageWord : Obligations.RdwReturnsMessageWord := by
  refine fun s j hfits => ⟨encode_rdw_toNat j, ?_⟩
  by_cases hj : j.toNat < s.nwords
  · refine ⟨_, exec_rdw_of_lt hfits hj, ?_⟩
    rw [if_pos hj]
    exact ⟨⟨rfl, rfl⟩, rfl, rfl, rfl, ⟨fun _ => rfl, fun _ => rfl⟩, rfl, rfl, rfl⟩
  · refine ⟨_, exec_rdw_of_not_lt hj, ?_⟩
    rw [if_neg hj]
    exact ⟨⟨rfl, rfl⟩, rfl, rfl, rfl, ⟨fun _ => rfl, fun _ => rfl⟩, rfl, rfl, rfl⟩

/-- Settles O39: the response is all that a well-formed selection writes. -/
theorem rdsReturnsRegister : Obligations.RdsReturnsRegister := by
  refine ⟨fun s sel hwf => ⟨encode_rds_toNat sel, _, exec_rds_of_wellFormed hwf s, ?_, ⟨rfl, rfl, rfl, rfl⟩,
    ⟨fun _ => rfl, fun _ => rfl⟩, rfl, rfl, rfl⟩, _, decode_encode_rds_three⟩
  unfold selectedRegister
  split
  · rfl
  · split <;> rfl

end Sys2Proof.Machine

/-! The response of every command word (45_host_commands.md R241). -/
namespace Sys2Proof.Machine

section
variable {r : Result} {s t : State}

theorem finish_responds_status (h : finish s = .next t) : t.rsp = some t.status := by
  cases h
  rfl

theorem andThen_finish_responds_status (h : andThen r finish = .next t) : t.rsp = some t.status := by
  obtain ⟨u, -, hu⟩ := andThen_eq_next.1 h
  exact finish_responds_status hu

end

/-- Settles O41: the three read-out commands by their equations; every other command ends in `finish`. -/
theorem responseTable : Obligations.ResponseTable := by
  intro w s t h
  rcases runWord_next h with ⟨i, hd, hx⟩ | ⟨why, hd, rfl⟩ <;> rw [hd]
  · cases i with
    | nop | clr | push | init => exact finish_responds_status hx
    | ptxt | phex | cmpr | htxt | hhex => exact andThen_finish_responds_status hx
    | rdh i => cases hx; rfl
    | rdw j =>
      obtain rfl := exec_rdw_next hx
      exact apply_ite State.rsp ..
    | rds sel =>
      rw [exec_rds_of_wellFormed (wellFormed_of_decode_legal hd)] at hx
      cases hx
      exact (apply_ite some ..).trans (congrArg _ (apply_ite some ..))
  · exact ⟨rfl, rfl⟩

end Sys2Proof.Machine

/-! What `HTXT` does (45_host_commands.md R248). -/
namespace Sys2Proof.Machine

section
variable {s u : State} {r : Result}

/-- The last part of an entry point: what its preprocessor left is compressed, and `STATUS` is the response. -/
theorem andThen_runCompress_finish (hr : r = .next u) (hfits : MessageFits u) :
    andThen (andThen r runCompress) finish = .next (respondStatus (drawCompression (foldMessage u))) :=
  andThen_eq_next.2 ⟨_, andThen_eq_next.2 ⟨u, hr, runCompress_fits hfits.1 hfits.2⟩, rfl⟩

theorem exec_htxt_stores (ho : flagSet s.status .eovf = false) (hl : s.len ≤ s.cfg.ibufBytes) :
    exec .htxt s = .next (respondStatus (drawCompression (foldMessage
      (drawScratch (storeMessage (loadIv s) (padText (inputBytes s))))))) :=
  andThen_runCompress_finish (runPadText_stores (s := loadIv s) ho hl)
    ⟨padText_length_mod _, padText_fits (by simpa using hl)⟩

theorem exec_htxt_overflowed (ho : flagSet s.status .eovf = true) :
    exec .htxt s = .next (respondStatus (drawCompression (foldMessage (dropMessage (loadIv s))))) :=
  andThen_runCompress_finish (runPadText_overflowed (s := loadIv s) ho) (dropMessage_messageFits _)

/-- The message just stored is the one that is folded. -/
theorem foldMessage_drawScratch_storeMessage_h (s : State) (m : List Word) :
    (foldMessage (drawScratch (storeMessage s m))).h = compressAll s.h m := by
  simp [messageWords_stored]

/-- Folding no message leaves `H` (R217). -/
theorem foldMessage_dropMessage_h (s : State) : (foldMessage (dropMessage s)).h = s.h := by
  rw [foldMessage_h, messageWords_eq_nil rfl]
  rfl

end

/-- Settles O31: the second `HTXT` finds the same flags and the same input. -/
theorem htxtDigestsInput : Obligations.HtxtDigestsInput := by
  refine ⟨by decide, fun s hl => ?_⟩
  cases ho : flagSet s.status .eovf with
  | true =>
    have hiv (s : State) := foldMessage_dropMessage_h (loadIv s)
    exact ⟨_, exec_htxt_overflowed ho, ⟨hiv s, rfl, fun _ => rfl⟩, rfl, rfl, rfl, fun _ => rfl, rfl, ⟨rfl, rfl⟩,
      _, exec_htxt_overflowed ho, (hiv _).trans (hiv s).symm⟩
  | false =>
    have hdigest (s : State) (m : List Word) := foldMessage_drawScratch_storeMessage_h (loadIv s) m
    exact ⟨_, exec_htxt_stores ho hl,
      ⟨hdigest s _, messageWords_stored _ _, rfl, fun _ hj => readMbuf_storeMessage_of_length_le (loadIv s) hj⟩,
      rfl, rfl, rfl, fun _ => rfl, rfl, ⟨rfl, rfl⟩, _, exec_htxt_stores ho hl,
      (hdigest _ _).trans (hdigest s _).symm⟩

end Sys2Proof.Machine

/-! What `HHEX` does (45_host_commands.md R249). -/
namespace Sys2Proof.Machine

section
variable {s : State}

theorem exec_hhex_stores (ho : flagSet s.status .eovf = false) (hl : s.len ≤ s.cfg.ibufBytes) {d : List Nibble}
    (hd : hexDigits (inputBytes s) = some d) :
    exec .hhex s = .next (respondStatus (drawCompression (foldMessage
      (drawScratch (storeMessage (loadIv s) (padHex d)))))) :=
  andThen_runCompress_finish (runPadHex_stores (s := loadIv s) ho hl hd)
    ⟨padHex_length_mod d, padHex_fits (by simpa [hexDigits_length hd] using hl)⟩

theorem exec_hhex_overflowed (ho : flagSet s.status .eovf = true) :
    exec .hhex s = .next (respondStatus (drawCompression (foldMessage (dropMessage (loadIv s))))) :=
  andThen_runCompress_finish (runPadHex_overflowed (s := loadIv s) ho) (dropMessage_messageFits _)

theorem exec_hhex_invalid (ho : flagSet s.status .eovf = false) (hl : s.len ≤ s.cfg.ibufBytes)
    (hd : hexDigits (inputBytes s) = none) :
    exec .hhex s = .next (respondStatus (drawCompression (foldMessage
      (drawScratch (dropMessage (raise .ehex (loadIv s))))))) :=
  andThen_runCompress_finish (runPadHex_invalid (s := loadIv s) ho hl hd) (dropMessage_messageFits _)

end

/-- Settles O32: the three cases of the hex preprocessor, each followed by the fold of what it left. -/
theorem hhexDigestsInput : Obligations.HhexDigestsInput := by
  refine ⟨by decide, fun s hl => ?_⟩
  simp only [← hexDigits_inputBytes_eq_none_iff]
  have hiv (s : State) (h : s.h = iv) := (foldMessage_dropMessage_h s).trans h
  cases ho : flagSet s.status .eovf with
  | true =>
    exact ⟨_, exec_hhex_overflowed ho, ⟨hiv _ rfl, rfl, rfl, fun _ => rfl⟩, rfl, rfl, fun _ => rfl, rfl, rfl, rfl⟩
  | false =>
    cases hd : hexDigits (inputBytes s) with
    | none =>
      exact ⟨_, exec_hhex_invalid ho hl hd, ⟨hiv (raise .ehex (loadIv s)) rfl, rfl, rfl, fun _ => rfl⟩, rfl, rfl,
        fun _ => rfl, rfl, rfl, rfl⟩
    | some d =>
      exact ⟨_, exec_hhex_stores ho hl hd,
        ⟨d, by simpa using hexDigits_length hd, fun _ => getElem?_inputDigits hd,
          foldMessage_drawScratch_storeMessage_h (loadIv s) _, messageWords_stored _ _, rfl, rfl,
          fun _ hj => readMbuf_storeMessage_of_length_le (loadIv s) hj⟩,
        rfl, rfl, fun _ => rfl, rfl, rfl, rfl⟩

end Sys2Proof.Machine

/-! An entry point is `INIT`, its preprocessor and `CMPR` in turn (45_host_commands.md R248, R249): the responses in
between are neither read nor left. -/
namespace Sys2Proof.Machine

/-- The operation does not read the response port, and leaves what it holds. -/
def KeepsResponse (run : State → Result) : Prop :=
  ∀ (s t : State) (v : Word), run (respond s v) = .next t → ∃ u, run s = .next u ∧ t = respond u v

theorem runPadText_keepsResponse : KeepsResponse runPadText := by
  intro s t v h
  rcases runPadText_next h with ⟨ho, rfl⟩ | ⟨ho, hl, hput⟩
  · exact ⟨_, runPadText_overflowed ho, rfl⟩
  · obtain ⟨-, rfl⟩ := putMessage_next hput
    exact ⟨_, runPadText_stores (s := s) ho hl, rfl⟩

theorem runPadHex_keepsResponse : KeepsResponse runPadHex := by
  intro s t v h
  rcases runPadHex_next h with ⟨ho, rfl⟩ | ⟨ho, hl, ⟨d, hd, hput⟩ | ⟨hd, rfl⟩⟩
  · exact ⟨_, runPadHex_overflowed ho, rfl⟩
  · obtain ⟨-, rfl⟩ := putMessage_next hput
    exact ⟨_, runPadHex_stores (s := s) ho hl hd, rfl⟩
  · exact ⟨_, runPadHex_invalid (s := s) ho hl hd, rfl⟩

/-- Running a preprocessor between `INIT` and `CMPR` as a command of its own leads to the same state as running it
inside an entry point. -/
theorem entryPoint_eq_composition {run : State → Result} (hrun : KeepsResponse run) {s a b c : State}
    (ha : exec .init s = .next a) (hb : andThen (run a) finish = .next b) (hc : exec .cmpr b = .next c) :
    andThen (andThen (run (loadIv s)) runCompress) finish = .next c := by
  obtain rfl : respondStatus (loadIv s) = a := by simpa [exec_init] using ha
  obtain ⟨p, hp, hfinish⟩ := andThen_eq_next.1 hb
  obtain ⟨u, hu, rfl⟩ := hrun _ _ _ hp
  cases hfinish
  obtain ⟨hfits, rfl⟩ := exec_cmpr_next hc
  exact andThen_runCompress_finish (u := u) hu hfits

/-- Settles O33: the composition ends in the very state of the entry point (`entryPoint_eq_composition`). -/
theorem entryPointsAreCompositions : Obligations.EntryPointsAreCompositions := by
  intro s a b c ha
  have same : ObsEq c c ∧ c.rsp = c.rsp ∧ SameMemory c c :=
    ⟨⟨rfl, rfl, rfl, rfl, rfl, rfl, rfl, rfl, rfl⟩, rfl, fun _ => rfl, fun _ => rfl⟩
  exact ⟨fun hb hc => ⟨c, entryPoint_eq_composition runPadText_keepsResponse ha hb hc, same⟩,
    fun hb hc => ⟨c, entryPoint_eq_composition runPadHex_keepsResponse ha hb hc, same⟩⟩

end Sys2Proof.Machine

/-! Running the pending commands of a sequence one by one (00_scope.md R14, 45_host_commands.md R242). -/
namespace Sys2Proof.Machine

/-- From `s` the engine gives the responses `rs`, one a step, and then stands in `t`. -/
def Answers (s : State) (rs : List Word) (t : State) : Prop :=
  ∀ n, responses (rs.length + n) s = (responses n t).map (rs ++ ·)

/-- The idle engine has the commands `is` on its port, then `rest`. -/
def Pending (is : List Instr) (rest : List HostEvent) (s : State) : Prop :=
  s.phase = .idle ∧ s.inputs = presented is ++ rest

section
variable {s t u : State} {is : List Instr} {rest : List HostEvent}

theorem Answers.refl (s : State) : Answers s [] s := fun n => by simp

theorem Answers.of_step {v : Word} (h : step s = .next t) (hv : t.rsp = some v) : Answers s [v] t := fun n => by
  rw [List.length_singleton, Nat.add_comm]
  simp [responses, h, hv]

theorem Answers.trans {rs rs' : List Word} (h : Answers s rs t) (h' : Answers t rs' u) : Answers s (rs ++ rs') u :=
  fun n => by
    rw [List.length_append, Nat.add_assoc, h, h', Option.map_map]
    simp [Function.comp_def]

theorem Answers.responses_eq {rs : List Word} (h : Answers s rs t) : responses rs.length s = some rs := by
  simpa [responses] using h 0

theorem update_keeps_phase (i : Instr) (p : Phase) (s t : State) (h : Update i s t) (hs : s.phase = p) :
    t.phase = p := by
  cases h <;> exact hs

/-- The first pending command runs to its response and leaves the others pending. -/
theorem Pending.run_first {i : Instr} {v : Word} (h : Pending (i :: is) rest s) (hwf : wellFormed i = true)
    (hx : exec i (takeEvent s (presented is ++ rest)) = .next t) (hv : t.rsp = some v) :
    Answers s [v] t ∧ Pending is rest t := by
  obtain ⟨hidle, hin⟩ := h
  have hstep : step s = .next t := (step_cmd hidle hin).trans ((runWord_legal (decode_encode hwf) _).trans hx)
  obtain ⟨-, hrest⟩ := exec_sameOutside hx
  exact ⟨.of_step hstep hv, (exec_updates hx).keep (update_keeps_phase i .idle) hidle, hrest⟩

/-- A pending `CLR` responds 0 and leaves no input and no flag (R244). -/
theorem Pending.run_clr (h : Pending (.clr :: is) rest s) :
    ∃ t, Answers s [0] t ∧ Pending is rest t ∧ t.status = 0 ∧ t.len = 0 ∧ t.cfg = s.cfg := by
  obtain ⟨hone, hpending⟩ := h.run_first rfl (exec_clr _) (v := 0) rfl
  exact ⟨_, hone, hpending, rfl, rfl, rfl⟩

/-- A pending `PUSH` with room in the buffer appends its byte to the input and responds the clear `STATUS` (R246). -/
theorem Pending.run_push {b : Byte} (h : Pending (.push b :: is) rest s) (hst : s.status = 0)
    (hroom : s.len < s.cfg.ibufBytes) :
    ∃ t, Answers s [0] t ∧ Pending is rest t ∧ t.status = 0 ∧ inputBytes t = inputBytes s ++ [b] ∧
      t.len = s.len + 1 ∧ t.cfg = s.cfg := by
  have hpush := pushByte_of_room (s := takeEvent s (presented is ++ rest)) hroom b
  have hst' := (congrArg State.status hpush).trans hst
  obtain ⟨hone, hpending⟩ := h.run_first rfl (exec_push b _) (congrArg some hst')
  exact ⟨_, hone, hpending, hst', inputBytes_pushByte (s := takeEvent s (presented is ++ rest)) hroom b,
    (congrArg State.len hpush :), (congrArg State.cfg hpush :)⟩

/-- Pending `PUSH` commands whose bytes all fit append them to the input. -/
theorem Pending.run_pushes {bs : List Byte} (h : Pending (pushBytes bs ++ is) rest s) (hst : s.status = 0)
    (hroom : s.len + bs.length ≤ s.cfg.ibufBytes) :
    ∃ t, Answers s (List.replicate bs.length 0) t ∧ Pending is rest t ∧ t.status = 0 ∧
      inputBytes t = inputBytes s ++ bs ∧ t.len ≤ t.cfg.ibufBytes := by
  induction bs generalizing s with
  | nil => exact ⟨s, .refl s, h, hst, by simp, hroom⟩
  | cons b bs ih =>
    rw [List.length_cons] at hroom
    obtain ⟨t, hone, hpending, hst, hin, hlen, hcfg⟩ := Pending.run_push h hst (by omega)
    obtain ⟨u, hrest, hpending, hst, hin', hfits⟩ := ih hpending hst (by rw [hlen, hcfg]; omega)
    exact ⟨u, hone.trans hrest, hpending, hst, by simp [hin', hin], hfits⟩

/-- Pending `RDH` commands respond the words they name, all of the same `H` (R250). -/
theorem Pending.run_reads {ks : List (BitVec 3)} (h : Pending (ks.map .rdh) rest s) :
    ∃ t, Answers s (ks.map fun k => wordAt s.h k.toNat) t := by
  induction ks generalizing s with
  | nil => exact ⟨s, .refl s⟩
  | cons k ks ih =>
    obtain ⟨hone, hpending⟩ := Pending.run_first h rfl (exec_rdh k _) rfl
    obtain ⟨t, hrest⟩ := ih hpending
    exact ⟨t, hone.trans hrest⟩

theorem Pending.run_digestReads (h : Pending digestReads rest s) : ∃ t, Answers s (wordList s.h) t :=
  Pending.run_reads (ks := [0, 1, 2, 3, 4, 5, 6, 7]) h

end

end Sys2Proof.Machine

/-! The digest sequences (45_host_commands.md R242). -/
namespace Sys2Proof.Machine

/-- In every state that holds `input` with no flag set, the command responds 0 and leaves `digest` in `H`. -/
def Digests (i : Instr) (input : List Byte) (digest : Words8) : Prop :=
  ∀ s : State, inputBytes s = input → s.status = 0 → s.len ≤ s.cfg.ibufBytes →
    ∃ t, exec i s = .next t ∧ t.rsp = some 0 ∧ t.h = digest

/-- `CLR`, the bytes of the input, an entry point and the eight reads, from any idle state: `CLR` makes the history
irrelevant, and the reads give the digest that the entry point left. -/
theorem responses_digestSequence {i : Instr} {input : List Byte} {digest : Words8} (hwf : wellFormed i = true)
    (hi : Digests i input digest) {s : State} {rest : List HostEvent} (hroom : input.length ≤ s.cfg.ibufBytes)
    (h : Pending ([.clr] ++ pushBytes input ++ [i] ++ digestReads) rest s) :
    responses (input.length + 10) s = some (List.replicate (input.length + 2) 0 ++ wordList digest) := by
  rw [List.append_assoc, List.append_assoc] at h
  obtain ⟨a, hclr, hpushes, hst, hlen, hcfg⟩ := Pending.run_clr h
  obtain ⟨b, hzeros, hentry, hst, hin, hfits⟩ := hpushes.run_pushes hst (by rw [hlen, hcfg]; omega)
  have hin : inputBytes b = input := by simpa [inputBytes, hlen] using hin
  obtain ⟨c, hx, hrsp, rfl⟩ := hi (takeEvent b (presented digestReads ++ rest)) hin hst hfits
  obtain ⟨hzero, hreads⟩ := hentry.run_first hwf hx hrsp
  obtain ⟨d, hdigest⟩ := hreads.run_digestReads
  have hall := (((hclr.trans hzeros).trans hzero).trans hdigest).responses_eq
  have hz : [(0 : Word)] ++ List.replicate input.length 0 ++ [0] = List.replicate (input.length + 2) 0 := by
    simp [List.replicate_succ, ← List.replicate_succ']
  rw [hz] at hall
  simpa using hall

theorem htxt_digests (bs : List Byte) : Digests .htxt bs (compressAll iv (padText bs)) := by
  rintro s rfl hst hl
  exact ⟨_, exec_htxt_stores (by rw [hst]; rfl) hl, congrArg some hst, foldMessage_drawScratch_storeMessage_h _ _⟩

theorem hhex_digests {cs : List Byte} {d : List Nibble} (hd : hexDigits cs = some d) :
    Digests .hhex cs (compressAll iv (padHex d)) := by
  rintro s rfl hst hl
  exact ⟨_, exec_hhex_stores (by rw [hst]; rfl) hl hd, congrArg some hst, foldMessage_drawScratch_storeMessage_h _ _⟩

/-- Settles O35: the digest sequence with `HTXT` as its entry point. -/
theorem digestFromText : Obligations.DigestFromText := fun _ bs _ hidle hroom hin =>
  responses_digestSequence rfl (htxt_digests bs) hroom ⟨hidle, hin⟩

/-- Settles O36: the digest sequence with `HHEX` as its entry point. -/
theorem digestFromHex : Obligations.DigestFromHex := fun _ _ _ _ hidle hroom hd hin =>
  responses_digestSequence rfl (hhex_digests hd) hroom ⟨hidle, hin⟩

end Sys2Proof.Machine

/-! What the shared operations can do to `STATUS` (60_exceptions.md R281, R286). -/
namespace Sys2Proof.Machine

section
variable {s t : State}

theorem runPadText_keeps_status (h : runPadText s = .next t) : t.status = s.status := by
  rcases runPadText_next h with ⟨-, rfl⟩ | ⟨-, -, hput⟩
  · rfl
  · obtain ⟨-, rfl⟩ := putMessage_next hput
    rfl

/-- The hex preprocessor raises at most `EHEX`, and only with `EOVF` clear (R181, R182). -/
theorem runPadHex_status (h : runPadHex s = .next t) :
    t.status = s.status ∨ (t.status = setFlag s.status .ehex ∧ flagSet s.status .eovf = false) := by
  rcases runPadHex_next h with ⟨-, rfl⟩ | ⟨ho, -, ⟨d, -, hput⟩ | ⟨-, rfl⟩⟩
  · exact .inl rfl
  · obtain ⟨-, rfl⟩ := putMessage_next hput
    exact .inl rfl
  · exact .inr ⟨rfl, ho⟩

theorem runCompress_keeps_status (h : runCompress s = .next t) : t.status = s.status := by
  obtain ⟨-, -, rfl⟩ := runCompress_next h
  rfl

theorem pushByte_status (s : State) (b : Byte) :
    (pushByte s b).status = s.status ∨ (pushByte s b).status = setFlag s.status .eovf := by
  by_cases hroom : s.len < s.cfg.ibufBytes
  · exact .inl (by rw [pushByte_of_room hroom]; rfl)
  · exact .inr (by rw [pushByte_of_full hroom]; rfl)

/-- A run followed by one that keeps `STATUS` leaves the `STATUS` of the first. -/
theorem andThen_status {r : Result} {f : State → Result} (hf : ∀ u v, f u = .next v → v.status = u.status)
    (h : andThen r f = .next t) : ∃ u, r = .next u ∧ t.status = u.status := by
  obtain ⟨u, hu, ht⟩ := andThen_eq_next.1 h
  exact ⟨u, hu, hf u t ht⟩

theorem finish_keeps_status (s t : State) (h : finish s = .next t) : t.status = s.status := by
  cases h
  rfl

end

/-- Settles O43: only the hex preprocessor, a `PUSH` and a `RDW` raise a flag, each the one its rule names; the
compression and the response that follow keep `STATUS`. -/
theorem atMostOneError : Obligations.AtMostOneError := by
  intro i s t hwf hi h
  cases i with
  | clr => exact absurd rfl hi
  | nop | init | rdh => cases h; exact .inl rfl
  | push b =>
    cases h
    rcases pushByte_status s b with hst | hst
    · exact .inl hst
    · exact .inr (.inr (.inl ⟨hst, b, rfl⟩))
  | ptxt =>
    obtain ⟨u, hu, hst⟩ := andThen_status finish_keeps_status h
    exact .inl (hst.trans (runPadText_keeps_status hu))
  | cmpr =>
    obtain ⟨u, hu, hst⟩ := andThen_status finish_keeps_status h
    exact .inl (hst.trans (runCompress_keeps_status hu))
  | htxt =>
    obtain ⟨v, hv, hst⟩ := andThen_status finish_keeps_status h
    obtain ⟨u, hu, hst'⟩ := andThen_status (fun _ _ => runCompress_keeps_status) hv
    exact .inl ((hst.trans hst').trans (runPadText_keeps_status (s := loadIv s) hu))
  | phex =>
    obtain ⟨u, hu, hst⟩ := andThen_status finish_keeps_status h
    rw [hst]
    exact (runPadHex_status hu).imp_right fun ⟨hraise, ho⟩ => .inl ⟨hraise, .inl rfl, ho⟩
  | hhex =>
    obtain ⟨v, hv, hst⟩ := andThen_status finish_keeps_status h
    obtain ⟨u, hu, hst'⟩ := andThen_status (fun _ _ => runCompress_keeps_status) hv
    rw [hst, hst']
    exact (runPadHex_status hu).imp_right fun ⟨hraise, ho⟩ => .inl ⟨hraise, .inr rfl, ho⟩
  | rdw j =>
    obtain rfl := exec_rdw_next h
    by_cases hj : j.toNat < s.nwords
    · rw [if_pos hj]
      exact .inl rfl
    · rw [if_neg hj]
      exact .inr (.inr (.inr ⟨rfl, j, rfl, not_lt.1 hj⟩))
  | rds sel =>
    rw [exec_rds_of_wellFormed hwf] at h
    cases h
    exact .inl rfl

end Sys2Proof.Machine

/-! An illegal word, and no word at all (60_exceptions.md R283, R305). -/
namespace Sys2Proof.Machine

/-- Raising an error leaves the other flags as they are (R28). -/
theorem flagSet_setFlag_of_ne (w : Word) {e e' : ErrFlag} (h : e' ≠ e) :
    flagSet (setFlag w e') e = flagSet w e := by
  have hbit : (flagCode e').getLsbD (flagBit e) = false := by
    revert h; cases e <;> cases e' <;> decide
  rw [flagSet, setFlag, BitVec.getLsbD_or, hbit, Bool.or_false, flagSet]

/-- Settles O9: the step is `execIllegal` on the state with the word taken, which sets `EILL` and responds. -/
theorem illegalWordRaisesEill : Obligations.IllegalWordRaisesEill := by
  constructor
  · intro s w rest why hidle hin hd
    exact ⟨_, (step_cmd hidle hin).trans (runWord_illegal hd _), rfl, rfl, rfl, rfl, rfl,
      flagSet_setFlag_of_ne s.status (by decide), flagSet_setFlag_of_ne s.status (by decide),
      ⟨fun _ => rfl, fun _ => rfl⟩, rfl, rfl, rfl⟩
  · simp only [List.forall_mem_cons]
    exact ⟨⟨.unassignedOp, by decide⟩, ⟨.argNotZero, by decide⟩, ⟨.rdhArgHigh, by decide⟩,
      ⟨.rdsSelThree, by decide⟩, ⟨.pushArgHigh, by decide⟩, List.forall_mem_nil _⟩

/-- Settles O10: the idle engine's step (`step_idle`) writes the response port only. -/
theorem idleEngineWaits : Obligations.IdleEngineWaits := fun s hidle hin =>
  ⟨idleStep s, step_idle hidle hin, rfl, ⟨rfl, rfl, rfl, rfl⟩, ⟨fun _ => rfl, fun _ => rfl⟩,
    ⟨rfl, rfl, rfl, rfl, rfl, rfl⟩, rfl, rfl⟩

end Sys2Proof.Machine

/-! What an entry point leaves in `H` and the message buffer (45_host_commands.md R248, R249): a function of the input
and `EOVF` alone (70_reset_and_hazards.md R321). -/
namespace Sys2Proof.Machine

/-- The padded message that the text preprocessor leaves (R156); none after an overflow (R157). -/
def textMessage (overflowed : Bool) (input : List Byte) : List Word :=
  if overflowed then [] else padText input

/-- The padded message that the hex preprocessor leaves (R180); none after an overflow or with an invalid digit (R181,
R182). -/
def hexMessage (overflowed : Bool) (input : List Byte) : List Word :=
  if overflowed then [] else ((hexDigits input).map padHex).getD []

/-- A preprocessor run that answers keeps `H` and leaves the message that `message` gives for `EOVF` and the input. -/
def LeavesMessage (run : State → Result) (message : Bool → List Byte → List Word) : Prop :=
  ∀ s u : State, run s = .next u → u.h = s.h ∧ messageWords u = message (flagSet s.status .eovf) (inputBytes s)

theorem runPadText_leavesMessage : LeavesMessage runPadText textMessage := by
  intro s u h
  rcases runPadText_next h with ⟨ho, rfl⟩ | ⟨ho, -, hput⟩
  · exact ⟨rfl, by rw [ho, messageWords_eq_nil rfl]; rfl⟩
  · obtain ⟨-, rfl⟩ := putMessage_next hput
    exact ⟨rfl, by rw [ho]; exact messageWords_stored s _⟩

theorem runPadHex_leavesMessage : LeavesMessage runPadHex hexMessage := by
  intro s u h
  rcases runPadHex_next h with ⟨ho, rfl⟩ | ⟨ho, -, ⟨d, hd, hput⟩ | ⟨hd, rfl⟩⟩
  · exact ⟨rfl, by rw [ho, messageWords_eq_nil rfl]; rfl⟩
  · obtain ⟨-, rfl⟩ := putMessage_next hput
    exact ⟨rfl, by rw [ho, hexMessage, hd]; exact messageWords_stored s _⟩
  · exact ⟨rfl, by rw [ho, hexMessage, hd, messageWords_eq_nil rfl]; rfl⟩

section
variable {run : State → Result} {message : Bool → List Byte → List Word} {s s' t t' : State}

/-- An entry point leaves its preprocessor's message and the digest of that message from the initial vector. -/
theorem entryPoint_leaves (hrun : LeavesMessage run message)
    (h : andThen (andThen (run (loadIv s)) runCompress) finish = .next t) :
    t.h = compressAll iv (message (flagSet s.status .eovf) (inputBytes s)) ∧
      messageWords t = message (flagSet s.status .eovf) (inputBytes s) := by
  obtain ⟨v, hv, hfinish⟩ := andThen_eq_next.1 h
  obtain ⟨u, hu, hcompress⟩ := andThen_eq_next.1 hv
  obtain ⟨-, -, rfl⟩ := runCompress_next hcompress
  cases hfinish
  obtain ⟨hiv, hmessage⟩ : u.h = iv ∧ messageWords u = message (flagSet s.status .eovf) (inputBytes s) := hrun _ _ hu
  exact ⟨by simp [hiv, hmessage], hmessage⟩

theorem entryPoint_ignores_history (hrun : LeavesMessage run message) (hin : inputBytes s = inputBytes s')
    (ho : flagSet s.status .eovf = flagSet s'.status .eovf)
    (h : andThen (andThen (run (loadIv s)) runCompress) finish = .next t)
    (h' : andThen (andThen (run (loadIv s')) runCompress) finish = .next t') :
    t.h = t'.h ∧ messageWords t = messageWords t' := by
  obtain ⟨hdigest, hmessage⟩ := entryPoint_leaves hrun h
  obtain ⟨hdigest', hmessage'⟩ := entryPoint_leaves hrun h'
  rw [hdigest, hmessage, hdigest', hmessage', hin, ho]
  exact ⟨rfl, rfl⟩

end

/-- Settles O34: both entry points leave a function of the input and `EOVF` (`entryPoint_leaves`); the parameter only
decides whether they answer. -/
theorem entryPointsIgnoreHistory : Obligations.EntryPointsIgnoreHistory := fun _ _ _ _ hin ho _ =>
  ⟨entryPoint_ignores_history runPadText_leavesMessage hin ho,
    entryPoint_ignores_history runPadHex_leavesMessage hin ho⟩

end Sys2Proof.Machine

/-! Reset (70_reset_and_hazards.md R310, R311). -/
namespace Sys2Proof.Machine

/-- Settles O11: a reset event is taken in every phase (`step_reset`), and with nothing listed in either memory every
element reads as unwritten since this reset. -/
theorem resetEventResets : Obligations.ResetEventResets := fun s _ rest he hin =>
  ⟨resetEvent (takeEvent s rest), step_reset he hin, rfl, rfl, rfl, rfl, rfl, rfl, fun _ => rfl, fun _ => rfl, rfl, rfl⟩

end Sys2Proof.Machine

/-! The hidden registers that a command does not use (10_state.md R30, R31, R35, R37; log entry 7). -/
namespace Sys2Proof.Machine

/-- The registers of the compression engine are the same in both states. -/
def SameCompression (s t : State) : Prop := t.work = s.work ∧ t.sched = s.sched ∧ t.blk = s.blk ∧ t.t = s.t

section
variable {i : Instr} {s t : State}

/-- Only an update that compresses writes the registers of the compression engine. -/
theorem exec_keeps_compression (hi : writesHash i = false) (h : exec i s = .next t) : SameCompression s t := by
  refine (exec_updates h).keep (P := SameCompression s) (fun u v huv hu => ?_) ⟨rfl, rfl, rfl, rfl⟩
  cases huv with
  | compress hw => simp [hi] at hw
  | respond | raise | clear | append | loadIv | dropMessage | storeMessage | drawScratch => exact hu

theorem exec_keeps_scratch (hi : runsPreprocessor i = false) (h : exec i s = .next t) : t.scratch = s.scratch := by
  refine (exec_updates h).keep (P := fun u => u.scratch = s.scratch) (fun u v huv hu => ?_) rfl
  cases huv with
  | drawScratch hp => simp [hi] at hp
  | respond | raise | clear | append | loadIv | dropMessage | storeMessage | compress => exact hu

/-- With `EOVF` set a preprocessor drops the message and packs nothing (R157, R181). -/
theorem exec_overflowed_keeps_scratch (hi : runsPreprocessor i = true) (ho : flagSet s.status .eovf = true)
    (h : exec i s = .next t) : t.scratch = s.scratch := by
  cases i with
  | ptxt => cases (exec_ptxt_overflowed ho).symm.trans h; rfl
  | phex => cases (exec_phex_overflowed ho).symm.trans h; rfl
  | htxt => cases (exec_htxt_overflowed ho).symm.trans h; rfl
  | hhex => cases (exec_hhex_overflowed ho).symm.trans h; rfl
  | nop | clr | push | init | cmpr | rdh | rdw | rds => cases hi

theorem exec_keeps_phase (h : exec i s = .next t) : t.phase = s.phase :=
  (exec_updates h).keep (update_keeps_phase i s.phase) rfl

end

/-- Settles O58: `PTXT` and `PHEX` do not compress, `CMPR` runs no preprocessor, and after an overflow no preprocessor
packs. -/
theorem unusedHiddenRegistersStay : Obligations.UnusedHiddenRegistersStay := by
  intro i s t h
  refine ⟨fun hi => exec_keeps_compression ?_ h, fun hi => exec_keeps_scratch ?_ h,
    fun hi ho => exec_overflowed_keeps_scratch hi ho h, exec_keeps_phase h⟩
  · rcases hi with rfl | rfl <;> rfl
  · rw [hi]; rfl

end Sys2Proof.Machine

/-! The known answers of the test vectors (95_test_vectors.md S2, S3). -/
namespace Sys2Proof.Machine

/-- Settles O57: one padded block each, compressed by evaluation. -/
theorem knownAnswers : Obligations.KnownAnswers := by
  constructor
  · decide +kernel
  · decide +kernel

end Sys2Proof.Machine
